-- ==== Sys2Proof/Word.lean ====
section
/-! DEFINITION. The word and byte types of the Model 990 family (00_scope.md R11). -/

namespace Sys2Proof

/-- A 16-bit word; bit 0 here is the least significant (the spec's slice notation, 00_scope.md R14). -/
abbrev Word := BitVec 16

/-- An 8-bit byte (00_scope.md R11). -/
abbrev Byte := BitVec 8

end Sys2Proof
end

