-- ==== Sys2Proof/Syntax.lean ====
section
/-! DEFINITION. The instructions of the family, one constructor per row of spec/opcode_table.json (30_encoding.md R99). An
instruction is its FIRST word: that word alone decides the length (R80), and the immediate operand or the address
words behind it are fetched while the instruction executes (40_addressing.md R120). -/

namespace Sys2Proof

/-- A workspace register number, 0 to 15 (10_state.md R22). -/
abbrev Reg := BitVec 4

/-- A general address (30_encoding.md R92): the five modes. Mode 2 is symbolic with register field 0 and indexed
with 1 to 15; the address itself stands in the extension word. -/
inductive GenAddr where
  /-- mode 0, `Rn` (40_addressing.md R122) -/
  | reg (r : Reg)
  /-- mode 1, `*Rn` (40_addressing.md R123) -/
  | ind (r : Reg)
  /-- mode 2 with register field 0, `@addr` (40_addressing.md R124) -/
  | sym
  /-- mode 2 with register field 1 to 15, `@addr(Rn)` (40_addressing.md R124) -/
  | idx (r : Reg)
  /-- mode 3, `*Rn+` (40_addressing.md R125) -/
  | inc (r : Reg)
  deriving DecidableEq, Repr

/-- The 72 instructions (30_encoding.md R99), in the table's order. -/
inductive Instr where
  /-- LI wa,iop (45_load_move.md R220) -/
  | li (w : Reg)
  /-- AI wa,iop (41_arithmetic.md R142) -/
  | ai (w : Reg)
  /-- ANDI wa,iop (46_logical.md R240) -/
  | andi (w : Reg)
  /-- ORI wa,iop (46_logical.md R241) -/
  | ori (w : Reg)
  /-- CI wa,iop (43_compare.md R192) -/
  | ci (w : Reg)
  /-- STWP wa (45_load_move.md R229) -/
  | stwp (w : Reg)
  /-- STST wa (45_load_move.md R228) -/
  | stst (w : Reg)
  /-- LWPI iop (45_load_move.md R223) -/
  | lwpi
  /-- LIMI iop (45_load_move.md R222) -/
  | limi
  /-- LMF wa,m (45_load_move.md R224) -/
  | lmf (m : BitVec 1) (w : Reg)
  /-- IDLE (44_control_cru.md R201) -/
  | idle
  /-- RSET (44_control_cru.md R200) -/
  | rset
  /-- RTWP (42_branch.md R164) -/
  | rtwp
  /-- CKON (44_control_cru.md R203) -/
  | ckon
  /-- CKOF (44_control_cru.md R202) -/
  | ckof
  /-- LREX (44_control_cru.md R204) -/
  | lrex
  /-- BLWP ga_s (42_branch.md R162) -/
  | blwp (g : GenAddr)
  /-- B ga_s (42_branch.md R160) -/
  | b (g : GenAddr)
  /-- X ga_s (42_branch.md R183) -/
  | x (g : GenAddr)
  /-- CLR ga_s (46_logical.md R244) -/
  | clr (g : GenAddr)
  /-- NEG ga_s (41_arithmetic.md R152) -/
  | neg (g : GenAddr)
  /-- INV ga_s (46_logical.md R243) -/
  | inv (g : GenAddr)
  /-- INC ga_s (41_arithmetic.md R147) -/
  | inc (g : GenAddr)
  /-- INCT ga_s (41_arithmetic.md R148) -/
  | inct (g : GenAddr)
  /-- DEC ga_s (41_arithmetic.md R149) -/
  | dec (g : GenAddr)
  /-- DECT ga_s (41_arithmetic.md R150) -/
  | dect (g : GenAddr)
  /-- BL ga_s (42_branch.md R161) -/
  | bl (g : GenAddr)
  /-- SWPB ga_s (45_load_move.md R227) -/
  | swpb (g : GenAddr)
  /-- SETO ga_s (46_logical.md R245) -/
  | seto (g : GenAddr)
  /-- ABS ga_s (41_arithmetic.md R151) -/
  | abs (g : GenAddr)
  /-- LDS ga_s (48_xop_longdistance.md R275) -/
  | lds (g : GenAddr)
  /-- LDD ga_d (48_xop_longdistance.md R276) -/
  | ldd (g : GenAddr)
  /-- SRA wa,c (47_shift.md R261) -/
  | sra (w : Reg) (count : BitVec 4)
  /-- SRL wa,c (47_shift.md R263) -/
  | srl (w : Reg) (count : BitVec 4)
  /-- SLA wa,c (47_shift.md R262) -/
  | sla (w : Reg) (count : BitVec 4)
  /-- SRC wa,c (47_shift.md R264) -/
  | src (w : Reg) (count : BitVec 4)
  /-- JMP (42_branch.md R166) -/
  | jmp (disp : BitVec 8)
  /-- JLT (42_branch.md R172) -/
  | jlt (disp : BitVec 8)
  /-- JLE (42_branch.md R170) -/
  | jle (disp : BitVec 8)
  /-- JEQ (42_branch.md R173) -/
  | jeq (disp : BitVec 8)
  /-- JHE (42_branch.md R169) -/
  | jhe (disp : BitVec 8)
  /-- JGT (42_branch.md R171) -/
  | jgt (disp : BitVec 8)
  /-- JNE (42_branch.md R174) -/
  | jne (disp : BitVec 8)
  /-- JNC (42_branch.md R176) -/
  | jnc (disp : BitVec 8)
  /-- JOC (42_branch.md R175) -/
  | joc (disp : BitVec 8)
  /-- JNO (42_branch.md R177) -/
  | jno (disp : BitVec 8)
  /-- JL (42_branch.md R168) -/
  | jl (disp : BitVec 8)
  /-- JH (42_branch.md R167) -/
  | jh (disp : BitVec 8)
  /-- JOP (42_branch.md R178) -/
  | jop (disp : BitVec 8)
  /-- SBO disp (44_control_cru.md R206) -/
  | sbo (disp : BitVec 8)
  /-- SBZ disp (44_control_cru.md R207) -/
  | sbz (disp : BitVec 8)
  /-- TB disp (44_control_cru.md R208) -/
  | tb (disp : BitVec 8)
  /-- COC ga_s,wa (43_compare.md R193) -/
  | coc (g : GenAddr) (d : Reg)
  /-- CZC ga_s,wa (43_compare.md R194) -/
  | czc (g : GenAddr) (d : Reg)
  /-- XOR ga_s,wa (46_logical.md R242) -/
  | xor (g : GenAddr) (d : Reg)
  /-- XOP ga_s,n (48_xop_longdistance.md R270) -/
  | xop (g : GenAddr) (n : BitVec 4)
  /-- LDCR ga_s,count (44_control_cru.md R209) -/
  | ldcr (g : GenAddr) (count : BitVec 4)
  /-- STCR ga_s,count (44_control_cru.md R210) -/
  | stcr (g : GenAddr) (count : BitVec 4)
  /-- MPY ga_s,wa_d (41_arithmetic.md R145) -/
  | mpy (g : GenAddr) (d : Reg)
  /-- DIV ga_s,wa_d (41_arithmetic.md R146) -/
  | div (g : GenAddr) (d : Reg)
  /-- SZC ga_s,ga_d (46_logical.md R248) -/
  | szc (gs gd : GenAddr)
  /-- SZCB ga_s,ga_d (46_logical.md R249) -/
  | szcb (gs gd : GenAddr)
  /-- S ga_s,ga_d (41_arithmetic.md R143) -/
  | s (gs gd : GenAddr)
  /-- SB ga_s,ga_d (41_arithmetic.md R144) -/
  | sb (gs gd : GenAddr)
  /-- C ga_s,ga_d (43_compare.md R190) -/
  | c (gs gd : GenAddr)
  /-- CB ga_s,ga_d (43_compare.md R191) -/
  | cb (gs gd : GenAddr)
  /-- A ga_s,ga_d (41_arithmetic.md R140) -/
  | a (gs gd : GenAddr)
  /-- AB ga_s,ga_d (41_arithmetic.md R141) -/
  | ab (gs gd : GenAddr)
  /-- MOV ga_s,ga_d (45_load_move.md R225) -/
  | mov (gs gd : GenAddr)
  /-- MOVB ga_s,ga_d (45_load_move.md R226) -/
  | movb (gs gd : GenAddr)
  /-- SOC ga_s,ga_d (46_logical.md R246) -/
  | soc (gs gd : GenAddr)
  /-- SOCB ga_s,ga_d (46_logical.md R247) -/
  | socb (gs gd : GenAddr)
  deriving DecidableEq, Repr

end Sys2Proof
end

