-- ==== Sys2Proof/WellFormed.lean ====
section
/-! DEFINITION. Well-formed instructions. Field widths are in the types; the one check left is that workspace register 0 cannot
index (40_addressing.md R124: mode 2 with register field 0 is symbolic addressing). -/

namespace Sys2Proof

/-- Register 0 is no index register (30_encoding.md R92, 10_state.md R23). -/
def GenAddr.wf : GenAddr → Bool
  | .idx r => r != 0
  | _ => true

/-- The general addresses an instruction has, source first (40_addressing.md R127). -/
def Instr.operands : Instr → List GenAddr
  | .blwp g | .b g | .x g | .clr g | .neg g | .inv g | .inc g | .inct g | .dec g | .dect g | .bl g | .swpb g
  | .seto g | .abs g | .lds g | .ldd g => [g]
  | .coc g _ | .czc g _ | .xor g _ | .xop g _ | .ldcr g _ | .stcr g _ | .mpy g _ | .div g _ => [g]
  | .szc gs gd | .szcb gs gd | .s gs gd | .sb gs gd | .c gs gd | .cb gs gd | .a gs gd | .ab gs gd
  | .mov gs gd | .movb gs gd | .soc gs gd | .socb gs gd => [gs, gd]
  | .li _ | .ai _ | .andi _ | .ori _ | .ci _ | .stwp _ | .stst _ | .lwpi | .limi | .lmf _ _ | .idle | .rset | .rtwp
  | .ckon | .ckof | .lrex | .sra _ _ | .srl _ _ | .sla _ _ | .src _ _ | .jmp _ | .jlt _ | .jle _ | .jeq _ | .jhe _
  | .jgt _ | .jne _ | .jnc _ | .joc _ | .jno _ | .jl _ | .jh _ | .jop _ | .sbo _ | .sbz _ | .tb _ => []

/-- An instruction is well formed when each of its general addresses is. -/
def Instr.wf (i : Instr) : Bool := i.operands.all GenAddr.wf

end Sys2Proof
end

