-- ==== Sys2Proof/Decode.lean ====
section
/-! DEFINITION. Decoding and encoding (30_encoding.md R80 to R109), written from the same format tables. Decoding is total:
a word that is no instruction is rejected by a named error. -/

namespace Sys2Proof

/-! ## Lengths (30_encoding.md R80) -/

/-- The extension words of a general address: one in mode 2 (30_encoding.md R92). -/
def GenAddr.extWords : GenAddr → Nat
  | .sym => 1
  | .idx _ => 1
  | _ => 0

/-- An immediate operand follows the instruction word (30_encoding.md R80). -/
def Instr.hasImmediate : Instr → Bool
  | .li _ | .ai _ | .andi _ | .ori _ | .ci _ | .lwpi | .limi => true
  | _ => false

/-- The extension words of an instruction; its length is one more (30_encoding.md R80). -/
def Instr.extWords (i : Instr) : Nat :=
  (if i.hasImmediate then 1 else 0) + (i.operands.map GenAddr.extWords).sum

/-! ## Decoding one instruction word (30_encoding.md R98, R99) -/

/-- Why bytes are no instruction: an undefined op code (30_encoding.md R108), a one in a bit that belongs to no field
(30_encoding.md R109), or too few bytes for the instruction's length. -/
inductive DecodeError where
  | undefinedOpcode
  | reservedField
  | truncated
  deriving DecidableEq, Repr

/-- The general address of a mode and a register field (30_encoding.md R92). -/
def genAddr (t : BitVec 2) (r : Reg) : GenAddr :=
  if t = 0 then .reg r
  else if t = 1 then .ind r
  else if t = 2 then (if r = 0 then .sym else .idx r)
  else .inc r

/-- Format I (30_encoding.md R82). -/
def decodeTwoAddress (op : BitVec 4) (gs gd : GenAddr) : Except DecodeError Instr :=
  match op.toNat with
  | 4 => .ok (.szc gs gd)
  | 5 => .ok (.szcb gs gd)
  | 6 => .ok (.s gs gd)
  | 7 => .ok (.sb gs gd)
  | 8 => .ok (.c gs gd)
  | 9 => .ok (.cb gs gd)
  | 10 => .ok (.a gs gd)
  | 11 => .ok (.ab gs gd)
  | 12 => .ok (.mov gs gd)
  | 13 => .ok (.movb gs gd)
  | 14 => .ok (.soc gs gd)
  | 15 => .ok (.socb gs gd)
  | _ => .error .undefinedOpcode

/-- Formats III, IV and IX (30_encoding.md R84, R85, R90): a general source and a 4-bit field. -/
def decodeAddressAndField (op : BitVec 6) (g : GenAddr) (d : BitVec 4) : Except DecodeError Instr :=
  match op.toNat with
  | 8 => .ok (.coc g d)
  | 9 => .ok (.czc g d)
  | 10 => .ok (.xor g d)
  | 11 => .ok (.xop g d)
  | 12 => .ok (.ldcr g d)
  | 13 => .ok (.stcr g d)
  | 14 => .ok (.mpy g d)
  | 15 => .ok (.div g d)
  | _ => .error .undefinedOpcode

/-- Format II (30_encoding.md R83). -/
def decodeDisplacement (op : BitVec 8) (disp : BitVec 8) : Except DecodeError Instr :=
  match op.toNat with
  | 0x10 => .ok (.jmp disp)
  | 0x11 => .ok (.jlt disp)
  | 0x12 => .ok (.jle disp)
  | 0x13 => .ok (.jeq disp)
  | 0x14 => .ok (.jhe disp)
  | 0x15 => .ok (.jgt disp)
  | 0x16 => .ok (.jne disp)
  | 0x17 => .ok (.jnc disp)
  | 0x18 => .ok (.joc disp)
  | 0x19 => .ok (.jno disp)
  | 0x1A => .ok (.jl disp)
  | 0x1B => .ok (.jh disp)
  | 0x1C => .ok (.jop disp)
  | 0x1D => .ok (.sbo disp)
  | 0x1E => .ok (.sbz disp)
  | 0x1F => .ok (.tb disp)
  | _ => .error .undefinedOpcode

/-- Format V (30_encoding.md R86). -/
def decodeShift (op : BitVec 8) (c w : BitVec 4) : Except DecodeError Instr :=
  match op.toNat with
  | 0x08 => .ok (.sra w c)
  | 0x09 => .ok (.srl w c)
  | 0x0A => .ok (.sla w c)
  | 0x0B => .ok (.src w c)
  | _ => .error .undefinedOpcode

/-- Format VI (30_encoding.md R87). -/
def decodeOneAddress (op : BitVec 10) (g : GenAddr) : Except DecodeError Instr :=
  match op.toNat with
  | 0x10 => .ok (.blwp g)
  | 0x11 => .ok (.b g)
  | 0x12 => .ok (.x g)
  | 0x13 => .ok (.clr g)
  | 0x14 => .ok (.neg g)
  | 0x15 => .ok (.inv g)
  | 0x16 => .ok (.inc g)
  | 0x17 => .ok (.inct g)
  | 0x18 => .ok (.dec g)
  | 0x19 => .ok (.dect g)
  | 0x1A => .ok (.bl g)
  | 0x1B => .ok (.swpb g)
  | 0x1C => .ok (.seto g)
  | 0x1D => .ok (.abs g)
  | 0x1E => .ok (.lds g)
  | 0x1F => .ok (.ldd g)
  | _ => .error .undefinedOpcode

/-- The instruction `i` where the bits outside its fields are zero (30_encoding.md R109). -/
def whenZero (outside : Bool) (i : Instr) : Except DecodeError Instr :=
  if outside then .ok i else .error .reservedField

/-- Formats VII, VIII and X (30_encoding.md R88, R89, R91): `m` is `IR[4]`, `w` is `IR[3:0]`. -/
def decodeImmediateAndControl (op : BitVec 11) (m : BitVec 1) (w : Reg) : Except DecodeError Instr :=
  match op.toNat with
  | 0x10 => whenZero (m == 0) (.li w)
  | 0x11 => whenZero (m == 0) (.ai w)
  | 0x12 => whenZero (m == 0) (.andi w)
  | 0x13 => whenZero (m == 0) (.ori w)
  | 0x14 => whenZero (m == 0) (.ci w)
  | 0x15 => whenZero (m == 0) (.stwp w)
  | 0x16 => whenZero (m == 0) (.stst w)
  | 0x17 => whenZero (m == 0 && w == 0) .lwpi
  | 0x18 => whenZero (m == 0 && w == 0) .limi
  | 0x19 => .ok (.lmf m w)
  | 0x1A => whenZero (m == 0 && w == 0) .idle
  | 0x1B => whenZero (m == 0 && w == 0) .rset
  | 0x1C => whenZero (m == 0 && w == 0) .rtwp
  | 0x1D => whenZero (m == 0 && w == 0) .ckon
  | 0x1E => whenZero (m == 0 && w == 0) .ckof
  | 0x1F => whenZero (m == 0 && w == 0) .lrex
  | _ => .error .undefinedOpcode

/-- Decode one instruction word: the cascade of 30_encoding.md R98 on the most significant bits. -/
def decodeWord (ir : Word) : Except DecodeError Instr :=
  let w := ir.extractLsb' 0 4
  let g := genAddr (ir.extractLsb' 4 2) w
  let d := ir.extractLsb' 6 4
  if 4 ≤ (ir.extractLsb' 12 4).toNat then
    decodeTwoAddress (ir.extractLsb' 12 4) g (genAddr (ir.extractLsb' 10 2) d)
  else if ir.extractLsb' 13 3 = 1 then decodeAddressAndField (ir.extractLsb' 10 6) g d
  else if ir.extractLsb' 12 4 = 1 then decodeDisplacement (ir.extractLsb' 8 8) (ir.extractLsb' 0 8)
  else if ir.extractLsb' 10 6 = 3 then .error .undefinedOpcode
  else if ir.extractLsb' 10 6 = 2 then decodeShift (ir.extractLsb' 8 8) (ir.extractLsb' 4 4) w
  else if ir.extractLsb' 10 6 = 1 then decodeOneAddress (ir.extractLsb' 6 10) g
  else if ir.extractLsb' 9 7 = 1 then decodeImmediateAndControl (ir.extractLsb' 5 11) (ir.extractLsb' 4 1) w
  else .error .undefinedOpcode

/-! ## Encoding one instruction word -/

/-- The T field of a general address (30_encoding.md R92). -/
def GenAddr.mode : GenAddr → BitVec 2
  | .reg _ => 0
  | .ind _ => 1
  | .sym => 2
  | .idx _ => 2
  | .inc _ => 3

/-- The register field of a general address (30_encoding.md R92). -/
def GenAddr.field : GenAddr → Reg
  | .reg r => r
  | .ind r => r
  | .sym => 0
  | .idx r => r
  | .inc r => r

/-- Format I (30_encoding.md R82): op, T_d, D, T_s, S. -/
def encodeTwoAddress (op : BitVec 4) (gs gd : GenAddr) : Word :=
  op ++ gd.mode ++ gd.field ++ gs.mode ++ gs.field

/-- Formats III, IV and IX (30_encoding.md R84, R85, R90): op, D or C, T_s, S. -/
def encodeAddressAndField (op : BitVec 6) (g : GenAddr) (d : BitVec 4) : Word := op ++ d ++ g.mode ++ g.field

/-- Format II (30_encoding.md R83): op, disp. -/
def encodeDisplacement (op : BitVec 8) (disp : BitVec 8) : Word := op ++ disp

/-- Format V (30_encoding.md R86): op, C, W. -/
def encodeShift (op : BitVec 8) (w c : BitVec 4) : Word := op ++ c ++ w

/-- Format VI (30_encoding.md R87): op, T_s, S. -/
def encodeOneAddress (op : BitVec 10) (g : GenAddr) : Word := op ++ g.mode ++ g.field

/-- Formats VII, VIII and X (30_encoding.md R88, R89, R91): op, M, W. -/
def encodeImmediateAndControl (op : BitVec 11) (m : BitVec 1) (w : Reg) : Word := op ++ m ++ w

/-- The instruction word of an instruction (30_encoding.md R99). -/
def encode : Instr → Word
  | .li w => encodeImmediateAndControl 0x10 0 w
  | .ai w => encodeImmediateAndControl 0x11 0 w
  | .andi w => encodeImmediateAndControl 0x12 0 w
  | .ori w => encodeImmediateAndControl 0x13 0 w
  | .ci w => encodeImmediateAndControl 0x14 0 w
  | .stwp w => encodeImmediateAndControl 0x15 0 w
  | .stst w => encodeImmediateAndControl 0x16 0 w
  | .lwpi => encodeImmediateAndControl 0x17 0 0
  | .limi => encodeImmediateAndControl 0x18 0 0
  | .lmf m w => encodeImmediateAndControl 0x19 m w
  | .idle => encodeImmediateAndControl 0x1A 0 0
  | .rset => encodeImmediateAndControl 0x1B 0 0
  | .rtwp => encodeImmediateAndControl 0x1C 0 0
  | .ckon => encodeImmediateAndControl 0x1D 0 0
  | .ckof => encodeImmediateAndControl 0x1E 0 0
  | .lrex => encodeImmediateAndControl 0x1F 0 0
  | .blwp g => encodeOneAddress 0x10 g
  | .b g => encodeOneAddress 0x11 g
  | .x g => encodeOneAddress 0x12 g
  | .clr g => encodeOneAddress 0x13 g
  | .neg g => encodeOneAddress 0x14 g
  | .inv g => encodeOneAddress 0x15 g
  | .inc g => encodeOneAddress 0x16 g
  | .inct g => encodeOneAddress 0x17 g
  | .dec g => encodeOneAddress 0x18 g
  | .dect g => encodeOneAddress 0x19 g
  | .bl g => encodeOneAddress 0x1A g
  | .swpb g => encodeOneAddress 0x1B g
  | .seto g => encodeOneAddress 0x1C g
  | .abs g => encodeOneAddress 0x1D g
  | .lds g => encodeOneAddress 0x1E g
  | .ldd g => encodeOneAddress 0x1F g
  | .sra w c => encodeShift 0x08 w c
  | .srl w c => encodeShift 0x09 w c
  | .sla w c => encodeShift 0x0A w c
  | .src w c => encodeShift 0x0B w c
  | .jmp d => encodeDisplacement 0x10 d
  | .jlt d => encodeDisplacement 0x11 d
  | .jle d => encodeDisplacement 0x12 d
  | .jeq d => encodeDisplacement 0x13 d
  | .jhe d => encodeDisplacement 0x14 d
  | .jgt d => encodeDisplacement 0x15 d
  | .jne d => encodeDisplacement 0x16 d
  | .jnc d => encodeDisplacement 0x17 d
  | .joc d => encodeDisplacement 0x18 d
  | .jno d => encodeDisplacement 0x19 d
  | .jl d => encodeDisplacement 0x1A d
  | .jh d => encodeDisplacement 0x1B d
  | .jop d => encodeDisplacement 0x1C d
  | .sbo d => encodeDisplacement 0x1D d
  | .sbz d => encodeDisplacement 0x1E d
  | .tb d => encodeDisplacement 0x1F d
  | .coc g d => encodeAddressAndField 8 g d
  | .czc g d => encodeAddressAndField 9 g d
  | .xor g d => encodeAddressAndField 10 g d
  | .xop g n => encodeAddressAndField 11 g n
  | .ldcr g c => encodeAddressAndField 12 g c
  | .stcr g c => encodeAddressAndField 13 g c
  | .mpy g d => encodeAddressAndField 14 g d
  | .div g d => encodeAddressAndField 15 g d
  | .szc gs gd => encodeTwoAddress 4 gs gd
  | .szcb gs gd => encodeTwoAddress 5 gs gd
  | .s gs gd => encodeTwoAddress 6 gs gd
  | .sb gs gd => encodeTwoAddress 7 gs gd
  | .c gs gd => encodeTwoAddress 8 gs gd
  | .cb gs gd => encodeTwoAddress 9 gs gd
  | .a gs gd => encodeTwoAddress 10 gs gd
  | .ab gs gd => encodeTwoAddress 11 gs gd
  | .mov gs gd => encodeTwoAddress 12 gs gd
  | .movb gs gd => encodeTwoAddress 13 gs gd
  | .soc gs gd => encodeTwoAddress 14 gs gd
  | .socb gs gd => encodeTwoAddress 15 gs gd

/-- The row of the op code map an instruction belongs to, its match and its mask (30_encoding.md R99). -/
def opcodeRow : Instr → Word × Word
  | .li _ => (0x0200, 0xFFF0)
  | .ai _ => (0x0220, 0xFFF0)
  | .andi _ => (0x0240, 0xFFF0)
  | .ori _ => (0x0260, 0xFFF0)
  | .ci _ => (0x0280, 0xFFF0)
  | .stwp _ => (0x02A0, 0xFFF0)
  | .stst _ => (0x02C0, 0xFFF0)
  | .lwpi => (0x02E0, 0xFFFF)
  | .limi => (0x0300, 0xFFFF)
  | .lmf _ _ => (0x0320, 0xFFE0)
  | .idle => (0x0340, 0xFFFF)
  | .rset => (0x0360, 0xFFFF)
  | .rtwp => (0x0380, 0xFFFF)
  | .ckon => (0x03A0, 0xFFFF)
  | .ckof => (0x03C0, 0xFFFF)
  | .lrex => (0x03E0, 0xFFFF)
  | .blwp _ => (0x0400, 0xFFC0)
  | .b _ => (0x0440, 0xFFC0)
  | .x _ => (0x0480, 0xFFC0)
  | .clr _ => (0x04C0, 0xFFC0)
  | .neg _ => (0x0500, 0xFFC0)
  | .inv _ => (0x0540, 0xFFC0)
  | .inc _ => (0x0580, 0xFFC0)
  | .inct _ => (0x05C0, 0xFFC0)
  | .dec _ => (0x0600, 0xFFC0)
  | .dect _ => (0x0640, 0xFFC0)
  | .bl _ => (0x0680, 0xFFC0)
  | .swpb _ => (0x06C0, 0xFFC0)
  | .seto _ => (0x0700, 0xFFC0)
  | .abs _ => (0x0740, 0xFFC0)
  | .lds _ => (0x0780, 0xFFC0)
  | .ldd _ => (0x07C0, 0xFFC0)
  | .sra _ _ => (0x0800, 0xFF00)
  | .srl _ _ => (0x0900, 0xFF00)
  | .sla _ _ => (0x0A00, 0xFF00)
  | .src _ _ => (0x0B00, 0xFF00)
  | .jmp _ => (0x1000, 0xFF00)
  | .jlt _ => (0x1100, 0xFF00)
  | .jle _ => (0x1200, 0xFF00)
  | .jeq _ => (0x1300, 0xFF00)
  | .jhe _ => (0x1400, 0xFF00)
  | .jgt _ => (0x1500, 0xFF00)
  | .jne _ => (0x1600, 0xFF00)
  | .jnc _ => (0x1700, 0xFF00)
  | .joc _ => (0x1800, 0xFF00)
  | .jno _ => (0x1900, 0xFF00)
  | .jl _ => (0x1A00, 0xFF00)
  | .jh _ => (0x1B00, 0xFF00)
  | .jop _ => (0x1C00, 0xFF00)
  | .sbo _ => (0x1D00, 0xFF00)
  | .sbz _ => (0x1E00, 0xFF00)
  | .tb _ => (0x1F00, 0xFF00)
  | .coc _ _ => (0x2000, 0xFC00)
  | .czc _ _ => (0x2400, 0xFC00)
  | .xor _ _ => (0x2800, 0xFC00)
  | .xop _ _ => (0x2C00, 0xFC00)
  | .ldcr _ _ => (0x3000, 0xFC00)
  | .stcr _ _ => (0x3400, 0xFC00)
  | .mpy _ _ => (0x3800, 0xFC00)
  | .div _ _ => (0x3C00, 0xFC00)
  | .szc _ _ => (0x4000, 0xF000)
  | .szcb _ _ => (0x5000, 0xF000)
  | .s _ _ => (0x6000, 0xF000)
  | .sb _ _ => (0x7000, 0xF000)
  | .c _ _ => (0x8000, 0xF000)
  | .cb _ _ => (0x9000, 0xF000)
  | .a _ _ => (0xA000, 0xF000)
  | .ab _ _ => (0xB000, 0xF000)
  | .mov _ _ => (0xC000, 0xF000)
  | .movb _ _ => (0xD000, 0xF000)
  | .soc _ _ => (0xE000, 0xF000)
  | .socb _ _ => (0xF000, 0xF000)

/-! ## Whole instructions as bytes, most significant byte of each word first (30_encoding.md R80, 20_memory.md R55) -/

/-- An instruction with its extension words in the order they follow it (30_encoding.md R93): the immediate operand, or
the source's address word and then the destination's. -/
structure Assembled where
  instr : Instr
  ext   : List Word
  deriving DecidableEq, Repr

/-- Well formed: the instruction is, and it has as many extension words as its fields imply (30_encoding.md R80). -/
def Assembled.wf (a : Assembled) : Bool := a.instr.wf && a.ext.length == a.instr.extWords

/-- The bytes of a word, the most significant first (20_memory.md R55). -/
def bytesOfWord (w : Word) : List Byte := [w.extractLsb' 8 8, w.extractLsb' 0 8]

/-- The words of a list of bytes, each most significant byte first; an odd last byte makes no word. -/
def wordsOfBytes : List Byte → List Word
  | hi :: lo :: rest => (hi ++ lo) :: wordsOfBytes rest
  | _ => []

/-- The bytes of an assembled instruction. -/
def encodeBytes (a : Assembled) : List Byte := (encode a.instr :: a.ext).flatMap bytesOfWord

/-- Decode the instruction at the head of a list of bytes, with its extension words; bytes behind it are not looked
at. -/
def decode (bs : List Byte) : Except DecodeError Assembled :=
  match wordsOfBytes bs with
  | [] => .error .truncated
  | ir :: rest =>
    match decodeWord ir with
    | .error e => .error e
    | .ok i => if i.extWords ≤ rest.length then .ok ⟨i, rest.take i.extWords⟩ else .error .truncated

/-- The three instruction words of the host's numbering: the first word in bits 15 to 0, the next in 31 to 16, the last in
47 to 32. -/
def tableWords (nbits w : Nat) : List Word :=
  let v := w % 2 ^ nbits
  [BitVec.ofNat 16 v, BitVec.ofNat 16 (v / 0x10000), BitVec.ofNat 16 (v / 0x100000000)]

/-- The instruction read from an instruction whose bits are `w` in the opcode table's numbering, laid out in memory
order; bits above `nbits` are zero. -/
def decodeTableWord (nbits w : Nat) : Option Instr :=
  match decode ((tableWords nbits w).flatMap bytesOfWord) with
  | .ok a => some a.instr
  | .error _ => none

end Sys2Proof
end

