-- ==== Sys2Proof/Config.lean ====
section
/-! DEFINITION. What an installation fixes (00_scope.md R6 to R12, 10_state.md R43): the platform, as plain data that a
state carries and no step changes; and the free values, constants without a body. -/

namespace Sys2Proof.Config

/-- VARIANT and MAP_OPTION (00_scope.md R6, R7). The map option is an argument of the Model 990/10, so that no
other member can have it. -/
inductive Variant where
  | tms9900
  | m990_4
  | m990_10 (mapOption : Bool)
  deriving DecidableEq, Repr

/-- CLOCK_LEVEL (00_scope.md R10): the interrupt level the optional line frequency clock is wired to. -/
inductive ClockWiring where
  | none
  | five
  | fifteen
  deriving DecidableEq, Repr

/-- What a populated physical word is (20_memory.md R52). A word of no region is unpopulated. -/
inductive RegionKind where
  | ram
  | rom
  | device
  deriving DecidableEq, Repr

/-- A range of physical byte addresses of one kind (00_scope.md R12: MEM_RAM, MEM_ROM, DEVICE_REGIONS). -/
structure Region where
  base : Nat
  size : Nat
  kind : RegionKind
  deriving DecidableEq, Repr

/-- The parameters of 00_scope.md R6 to R12. `spareStatus` says which unassigned bits of ST are storage (the open
part of ST_MASK, 10_state.md R33); `tmsLevels` is NLEVELS of the TMS9900 alone (R8); `xopModules` has bit n
set when a hardware module is connected for extended operation n, and `xopFunctions` when this installation supplies its
function, `xopModule` (R9; log 27); the first region that holds an address
decides its kind. -/
structure Platform where
  variant      : Variant
  tmsLevels    : Nat
  clock        : ClockWiring
  xopModules   : BitVec 16
  xopFunctions : BitVec 16
  spareStatus  : Word
  regions      : List Region
  deriving DecidableEq, Repr

/-- The platform of `State.reset`. DESIGN CHOICE (log 1), unsafe: the spec leaves every one of these open. The Model 990/10
with the map option is the member that has all 72 instructions; all of its 2^21 bytes are RAM. -/
def resetPlatform : Platform where
  variant      := .m990_10 true
  tmsLevels    := 16
  clock        := .five
  xopModules   := 0
  xopFunctions := 0
  spareStatus  := 0
  regions      := [⟨0, 0x200000, .ram⟩]

/-- ABS_CARRY (41_arithmetic.md R151): the carry after ABS, an open function of the operand. Free value, DESIGN CHOICE
(log 8), safe. -/
opaque absCarry : Word → Bool

/-- CruIn (20_memory.md R72): the bit the environment answers on a line at the n-th free value drawn. Free value, DESIGN
CHOICE (log 6), safe. -/
opaque cruInput : Nat → BitVec 12 → Bool

/-- The word a TILINE device register answers (20_memory.md R53) at the n-th free value drawn, by physical
address. Free value, DESIGN CHOICE (log 7), safe. -/
opaque deviceWord : Nat → Nat → Word

/-- The byte a TILINE device register answers (20_memory.md R53), as `deviceWord`. Free value, DESIGN CHOICE (log 7), safe. -/
opaque deviceByte : Nat → Nat → Byte

end Sys2Proof.Config
end

