-- ==== Sys2Proof/Machine/State.lean ====
section
/-! DEFINITION. The state of the machine as plain data (10_state.md R20), its value at reset, and the names of the ways a step
can stop. -/

namespace Sys2Proof.Machine

/-- Why the machine stops with a fault: an access the spec calls impossible. Both stops are safe: the model stops where a
real machine may go on. -/
inductive Fault where
  /-- An access to a logical address in none of the map file's three regions, "not accessible" (20_memory.md R65). Raised by
  every memory access. Safe. -/
  | mapLimit
  /-- An access to a physical word that is neither RAM nor ROM nor a device register (20_memory.md R52). Raised by every
  memory access. Safe. -/
  | unpopulated
  deriving DecidableEq, Repr

/-- Why an instruction has no meaning. All are safe: the model answers nothing. -/
inductive Refusal where
  /-- An arm of exec without a meaning. Raised by Dispatch alone, and by no arm of this model. Safe. -/
  | notModelled (mnemonic : String)
  /-- An undefined op code (30_encoding.md R108, R109): raised by the step that fetches it, by X, and by LMF, LDS and LDD
  without the map option. Safe. -/
  | undefinedOpcode
  /-- X of X (42_branch.md R183). Raised by X. Safe. -/
  | nestedExecute
  /-- A mode-3 operand that is the register which addresses it (40_addressing.md R126). Raised by the evaluation of a
  general address. Safe. -/
  | autoincrementSelfReference
  /-- An extended operation of a connected hardware module whose function the platform does not supply
  (48_xop_longdistance.md R271). Raised by XOP. Safe. -/
  | hardwareXop
  deriving DecidableEq, Repr

/-- Memory: the bytes that differ from what an unlisted address reads as, by physical byte address (20_memory.md R50,
R51). Its canonical form is `Memory.wf`. -/
abbrev Memory := List Host.Cell

/-- A map file (10_state.md R36): three limits in one's complement form and three biases. -/
structure MapFile where
  l1 : Word
  b1 : Word
  l2 : Word
  b2 : Word
  l3 : Word
  b3 : Word
  deriving DecidableEq, Repr, Inhabited

/-- The long-distance latch (10_state.md R37): which operand of the next instruction uses map file 2. -/
inductive LongDistance where
  | none
  | src
  | dst
  deriving DecidableEq, Repr

/-- The control instructions that emit a signal (44_control_cru.md R200, R205). -/
inductive Control where
  | rset
  | idle
  | ckof
  | ckon
  | lrex
  deriving DecidableEq, Repr

/-- What the environment sees of the processor, in order (70_reset_and_hazards.md R355). The model's own record (log 34). -/
inductive Event where
  /-- CruOut: a line driven to a bit (20_memory.md R72) -/
  | cruOut (line : BitVec 12) (bit : Bool)
  /-- CruIn: a line read, and the bit it answered (20_memory.md R72) -/
  | cruIn (line : BitVec 12) (bit : Bool)
  /-- a word written to the device register at a physical address (20_memory.md R53) -/
  | deviceWriteWord (address : Nat) (value : Word)
  /-- a byte written to the device register at a physical address (20_memory.md R53) -/
  | deviceWriteByte (address : Nat) (value : Byte)
  /-- a word read from the device register at a physical address, and what it answered (20_memory.md R53) -/
  | deviceReadWord (address : Nat) (value : Word)
  /-- a byte read from the device register at a physical address, and what it answered (20_memory.md R53) -/
  | deviceReadByte (address : Nat) (value : Byte)
  /-- Signal (00_scope.md R15) -/
  | signal (control : Control)
  deriving DecidableEq, Repr

/-- What the environment presents at one instruction boundary: IRQ[0..15] and CLK (60_exceptions.md R311, R330). -/
structure RequestSample where
  irq : BitVec 16
  clk : Bool
  deriving DecidableEq, Repr

/-- A byte of memory that another agent than the processor writes, by physical address (20_memory.md R51, R74;
48_xop_longdistance.md R271). -/
structure ByteWrite where
  address : BitVec 21
  value   : Byte
  deriving DecidableEq, Repr

/-- The state of the machine (10_state.md R20). The workspace registers are memory words (R22). -/
structure State where
  /-- the parameters of the installation, which no step changes (00_scope.md R6 to R12; log 1) -/
  plat   : Config.Platform
  /-- Workspace Pointer (10_state.md R21) -/
  wp     : Word
  /-- Program Counter (10_state.md R25) -/
  pc     : Word
  /-- Status register (10_state.md R28) -/
  st     : Word
  /-- memory (20_memory.md R50, R51) -/
  mem    : Memory
  /-- map file 0 (10_state.md R36) -/
  map0   : MapFile
  /-- map file 1 (10_state.md R36) -/
  map1   : MapFile
  /-- map file 2 (10_state.md R36) -/
  map2   : MapFile
  /-- long-distance latch LD (10_state.md R37) -/
  ld     : LongDistance
  /-- interrupt request inputs IRQ[0..15] (10_state.md R38) -/
  irq    : BitVec 16
  /-- line frequency clock tick input CLK (60_exceptions.md R330) -/
  clk    : Bool
  /-- error-interrupt latch ERR (10_state.md R38) -/
  err    : Bool
  /-- idle flag IDLE (10_state.md R39) -/
  idle   : Bool
  /-- line frequency clock enable CLKEN (10_state.md R40) -/
  clken  : Bool
  /-- the model's own: what the environment will present at the coming boundaries (log 5) -/
  irqEnv : List RequestSample
  /-- the model's own: what the environment will write to memory before each of the coming accesses (20_memory.md R74; log 25) -/
  dmaEnv : List (List ByteWrite)
  /-- the model's own: the output events, newest first (log 34) -/
  events : List Event
  /-- the model's own: how many free values have been drawn (log 6) -/
  draws  : Nat
  deriving DecidableEq, Repr

/-- A map file of zeros: every limit is the top of the logical space and the bias is 0, so every address maps to itself
(20_memory.md R63, R66). -/
def MapFile.identity : MapFile := ⟨0, 0, 0, 0, 0, 0⟩

/-- The machine right after reset (10_state.md R42, 70_reset_and_hazards.md R340), on the platform of log 1. WP and PC are
the words at 0000 and 0002, which an unlisted memory reads as 0 (log 3); MASK, PM, MF, ERR, IDLE, CLKEN and LD are
the spec's; the condition bits, X, the saved context and the map files are DESIGN CHOICE (log 2, log 4), unsafe. -/
def State.reset : State where
  plat   := Config.resetPlatform
  wp     := 0
  pc     := 0
  st     := 0
  mem    := []
  map0   := .identity
  map1   := .identity
  map2   := .identity
  ld     := .none
  irq    := 0
  clk    := false
  err    := false
  idle   := false
  clken  := false
  irqEnv := []
  dmaEnv := []
  events := []
  draws  := 0

/-! Named updates, one field each; Laws/State.lean says what each leaves alone. -/

/-- Replace `wp` (10_state.md R21). -/
def State.setWp (s : State) (v : Word) : State := { s with wp := v }

/-- Replace `pc` (10_state.md R25). -/
def State.setPc (s : State) (v : Word) : State := { s with pc := v }

/-- Replace `st` (10_state.md R28). -/
def State.setSt (s : State) (v : Word) : State := { s with st := v }

/-- Replace `mem` (20_memory.md R50). -/
def State.setMem (s : State) (v : Memory) : State := { s with mem := v }

/-- Replace `map0` (10_state.md R36). -/
def State.setMap0 (s : State) (v : MapFile) : State := { s with map0 := v }

/-- Replace `map1` (10_state.md R36). -/
def State.setMap1 (s : State) (v : MapFile) : State := { s with map1 := v }

/-- Replace `map2` (10_state.md R36). -/
def State.setMap2 (s : State) (v : MapFile) : State := { s with map2 := v }

/-- Replace `ld` (10_state.md R37). -/
def State.setLd (s : State) (v : LongDistance) : State := { s with ld := v }

/-- Replace `err` (10_state.md R38). -/
def State.setErr (s : State) (v : Bool) : State := { s with err := v }

/-- Replace `idle` (10_state.md R39). -/
def State.setIdle (s : State) (v : Bool) : State := { s with idle := v }

/-- Replace `clken` (10_state.md R40). -/
def State.setClken (s : State) (v : Bool) : State := { s with clken := v }

/-- Replace `events` (log 34). -/
def State.setEvents (s : State) (v : List Event) : State := { s with events := v }

/-- Replace `draws` (log 6). -/
def State.setDraws (s : State) (v : Nat) : State := { s with draws := v }

/-- Replace `irq` (10_state.md R38). -/
def State.setIrq (s : State) (v : BitVec 16) : State := { s with irq := v }

/-- Replace `clk` (60_exceptions.md R330). -/
def State.setClk (s : State) (v : Bool) : State := { s with clk := v }

/-- Replace `irqEnv` (log 5). -/
def State.setIrqEnv (s : State) (v : List RequestSample) : State := { s with irqEnv := v }

/-- Replace `dmaEnv` (log 25). -/
def State.setDmaEnv (s : State) (v : List (List ByteWrite)) : State := { s with dmaEnv := v }

end Sys2Proof.Machine
end

