-- ==== Sys2Proof/Machine/Memory.lean ====
section
/-! DEFINITION. Memory as a list of cells in canonical form, and the byte order of words (20_memory.md R50 to R58). -/

namespace Sys2Proof.Machine

/-- What a byte of memory that is not listed reads as. DESIGN CHOICE (log 3), unsafe: the spec calls RAM after power-on
unspecified (10_state.md R42). -/
def unlistedByte : Byte := 0

/-- The byte at a physical address. -/
def Memory.byte : Memory → Nat → Byte
  | [], _ => unlistedByte
  | (k, b) :: m, a => if a = k then b else Memory.byte m a

/-- List a byte at its place. -/
def Memory.insert (a : Nat) (b : Byte) : Memory → Memory
  | [] => [(a, b)]
  | (k, c) :: m =>
    if a < k then (a, b) :: (k, c) :: m else if a = k then (a, b) :: m else (k, c) :: Memory.insert a b m

/-- Unlist an address. -/
def Memory.erase (a : Nat) : Memory → Memory
  | [] => []
  | (k, c) :: m => if a = k then Memory.erase a m else (k, c) :: Memory.erase a m

/-- Write the byte at a physical address, keeping the canonical form. -/
def Memory.setByte (m : Memory) (a : Nat) (b : Byte) : Memory :=
  if b = unlistedByte then Memory.erase a m else Memory.insert a b m

/-- The most significant ("left") byte of a word (20_memory.md R55). -/
def leftByte (w : Word) : Byte := w.extractLsb' 8 8

/-- The least significant ("right") byte of a word (20_memory.md R55). -/
def rightByte (w : Word) : Byte := w.extractLsb' 0 8

/-- The word of a left and a right byte (20_memory.md R55). -/
def wordOf (left right : Byte) : Word := left ++ right

/-- The big-endian word at an even physical address (20_memory.md R55). -/
def Memory.word (m : Memory) (p : Nat) : Word := wordOf (m.byte p) (m.byte (p + 1))

/-- Write the big-endian word at an even physical address (20_memory.md R55). -/
def Memory.setWord (m : Memory) (p : Nat) (v : Word) : Memory :=
  (m.setByte p (leftByte v)).setByte (p + 1) (rightByte v)

/-- The address is below every listed one. -/
def Memory.below (a : Nat) : Memory → Bool
  | [] => true
  | (k, _) :: _ => a < k

/-- The canonical form: addresses strictly rise and no entry equals what an unlisted address reads as. -/
def Memory.wf : Memory → Bool
  | [] => true
  | (k, b) :: m => b != unlistedByte && Memory.below k m && Memory.wf m

end Sys2Proof.Machine
end

