-- ==== Sys2Proof/Machine/Flags.lean ====
section
/-! DEFINITION. The fields of ST (10_state.md R28) and the status-bit functions (40_addressing.md R130 to R136), written over
widths 8 and 16 alike. -/

namespace Sys2Proof.Machine

/-- The one-bit fields of ST (10_state.md R28). -/
inductive Flag where
  | lgt
  | agt
  | eq
  | c
  | ov
  | op
  | x
  | pm
  | mf
  deriving DecidableEq, Repr

/-- The slice index of a field of ST (10_state.md R28). -/
def Flag.bit : Flag → Nat
  | .lgt => 15
  | .agt => 14
  | .eq => 13
  | .c => 12
  | .ov => 11
  | .op => 10
  | .x => 9
  | .pm => 8
  | .mf => 7

/-- Read a field of a status word. -/
def flag (f : Flag) (st : Word) : Bool := st.getLsbD f.bit

/-- Write a field of a status word and leave the other bits (40_addressing.md R130). -/
def setFlag (f : Flag) (b : Bool) (st : Word) : Word :=
  if b then st ||| BitVec.twoPow 16 f.bit else st &&& ~~~(BitVec.twoPow 16 f.bit)

/-- ST.MASK, the interrupt mask (10_state.md R31). -/
def maskOf (st : Word) : BitVec 4 := st.extractLsb' 0 4

/-- Write ST.MASK and leave the other bits (10_state.md R31). -/
def setMask (m : BitVec 4) (st : Word) : Word := (st &&& 0xFFF0) ||| m.setWidth 16

/-- `Cmp0_w(r)`: logical and arithmetic greater than and equal, of a comparison to zero (40_addressing.md R131). -/
def compareToZero {w : Nat} (r : BitVec w) (st : Word) : Word :=
  setFlag .eq (r == 0) (setFlag .agt (!r.msb && r != 0) (setFlag .lgt (r != 0) st))

/-- `Cmp_w(s, d)`: s against d as unsigned and as two's complement numbers (40_addressing.md R132). -/
def compareOperands {w : Nat} (s d : BitVec w) (st : Word) : Word :=
  setFlag .eq (s == d) (setFlag .agt (d.slt s) (setFlag .lgt (d.ult s) st))

/-- `Parity(b)`: an odd number of one bits (40_addressing.md R135). -/
def oddParity (b : Byte) : Bool :=
  b.getLsbD 7 ^^ b.getLsbD 6 ^^ b.getLsbD 5 ^^ b.getLsbD 4 ^^ b.getLsbD 3 ^^ b.getLsbD 2 ^^ b.getLsbD 1 ^^ b.getLsbD 0

/-- A result with its carry and its overflow (40_addressing.md R133, R134). -/
structure Sum (w : Nat) where
  value    : BitVec w
  carry    : Bool
  overflow : Bool
  deriving DecidableEq, Repr

/-- `Add_w(a, b)` (40_addressing.md R133). -/
def add {w : Nat} (a b : BitVec w) : Sum w :=
  let sum := a.setWidth (w + 1) + b.setWidth (w + 1)
  let r := sum.setWidth w
  ⟨r, sum.getLsbD w, a.msb == b.msb && r.msb != a.msb⟩

/-- `Sub_w(d, s)`, d minus s: the two's complement of s is added, so that carry 1 means no borrow (40_addressing.md R134;
PRESUMED by the spec, log 12). -/
def sub {w : Nat} (d s : BitVec w) : Sum w :=
  let sum := d.setWidth (w + 1) + (~~~s).setWidth (w + 1) + 1
  let r := sum.setWidth w
  ⟨r, sum.getLsbD w, d.msb != s.msb && r.msb != d.msb⟩

/-- A computed result and what it does to ST: what an instruction's rule names in its last steps (40_addressing.md R120). -/
structure Computed (w : Nat) where
  value  : BitVec w
  status : Word → Word

/-- A result that sets LGT, AGT, EQ (40_addressing.md R136). -/
def Computed.logical {w : Nat} (r : BitVec w) : Computed w := ⟨r, compareToZero r⟩

/-- A byte result that sets LGT, AGT, EQ, OP (40_addressing.md R136). -/
def Computed.logicalByte (r : Byte) : Computed 8 := ⟨r, fun st => setFlag .op (oddParity r) (compareToZero r st)⟩

/-- A sum that sets LGT, AGT, EQ, C, OV (40_addressing.md R136). -/
def Computed.arithmetic {w : Nat} (x : Sum w) : Computed w :=
  ⟨x.value, fun st => setFlag .ov x.overflow (setFlag .c x.carry (compareToZero x.value st))⟩

/-- A byte sum that sets LGT, AGT, EQ, C, OV, OP (40_addressing.md R136). -/
def Computed.arithmeticByte (x : Sum 8) : Computed 8 :=
  ⟨x.value, fun st => setFlag .op (oddParity x.value) ((Computed.arithmetic x).status st)⟩

/-- A result that writes no status bit. -/
def Computed.silent {w : Nat} (r : BitVec w) : Computed w := ⟨r, id⟩

/-! ## Shifts (47_shift.md R261 to R264): n is 1 to 16 -/

/-- Shift right arithmetic (47_shift.md R261). -/
def shiftRightArithmetic (a : Word) (n : Nat) : Computed 16 :=
  let r := ((a.signExtend 32) >>> n).setWidth 16
  ⟨r, fun st => setFlag .c (a.getLsbD (n - 1)) (compareToZero r st)⟩

/-- The bits e[16], ..., e[16-n] of the operand followed by one zero are not all equal (47_shift.md R262). -/
def signChanges (a : Word) (n : Nat) : Bool :=
  let e : BitVec 17 := a ++ (0 : BitVec 1)
  (List.range (n + 1)).any fun k => e.getLsbD (16 - k) != e.getLsbD 16

/-- Shift left arithmetic (47_shift.md R262). -/
def shiftLeftArithmetic (a : Word) (n : Nat) : Computed 16 :=
  let r := a <<< n
  ⟨r, fun st => setFlag .ov (signChanges a n) (setFlag .c (a.getLsbD (16 - n)) (compareToZero r st))⟩

/-- Shift right logical (47_shift.md R263). -/
def shiftRightLogical (a : Word) (n : Nat) : Computed 16 :=
  let r := a >>> n
  ⟨r, fun st => setFlag .c (a.getLsbD (n - 1)) (compareToZero r st)⟩

/-- Shift right circular (47_shift.md R264). -/
def shiftRightCircular (a : Word) (n : Nat) : Computed 16 :=
  let r := (a >>> n) ||| (a <<< (16 - n))
  ⟨r, fun st => setFlag .c (a.getLsbD (n - 1)) (compareToZero r st)⟩

end Sys2Proof.Machine
end

