-- ==== Sys2Proof/Machine/Platform.lean ====
section
/-! DEFINITION. What the parameters of an installation say (00_scope.md R6 to R12, 10_state.md R33, 20_memory.md R52). -/

namespace Sys2Proof.Config

/-- The TMS9900 (00_scope.md R6). -/
def Platform.isTms (p : Platform) : Bool := p.variant == .tms9900

/-- Privileged Mode exists on the Model 990/10 only (00_scope.md R6). -/
def Platform.hasPrivilege (p : Platform) : Bool :=
  match p.variant with
  | .m990_10 _ => true
  | _ => false

/-- MAP_OPTION (00_scope.md R7). -/
def Platform.hasMap (p : Platform) : Bool :=
  match p.variant with
  | .m990_10 map => map
  | _ => false

/-- NLEVELS (00_scope.md R8): 16 on the Model 990/10, 8 on the Model 990/4, a parameter on the TMS9900 that the 4-bit mask
bounds by 16. -/
def Platform.levels (p : Platform) : Nat :=
  match p.variant with
  | .m990_10 _ => 16
  | .m990_4 => 8
  | .tms9900 => min p.tmsLevels 16

/-- CLOCK_LEVEL (00_scope.md R10); the TMS9900 has no clock (60_exceptions.md R330). -/
def Platform.clockLevel (p : Platform) : Option Nat :=
  if p.isTms then none
  else match p.clock with
    | .none => none
    | .five => some 5
    | .fifteen => some 15

/-- XOP_HW(n) (00_scope.md R9, 48_xop_longdistance.md R271): empty unless the Model 990/10. -/
def Platform.xopHardware (p : Platform) (n : BitVec 4) : Bool := p.hasPrivilege && p.xopModules.getLsbD n.toNat

/-- The installation supplies the function of module n (48_xop_longdistance.md R271; log 27). -/
def Platform.xopSupplied (p : Platform) (n : BitVec 4) : Bool := p.xopFunctions.getLsbD n.toNat

/-- ST_MASK (10_state.md R33): the bits of ST the variant assigns (10_state.md R28), and the unassigned ones this installation
stores. -/
def Platform.stMask (p : Platform) : Word :=
  0xFE0F ||| (if p.hasPrivilege then 0x0100 else 0) ||| (if p.hasMap then 0x0080 else 0) ||| p.spareStatus

/-- The kind of the first region that holds an address. -/
def kindIn : List Region → Nat → Option RegionKind
  | [], _ => none
  | r :: rs, a => if r.base ≤ a && a < r.base + r.size then some r.kind else kindIn rs a

/-- What the physical word of a byte address is, none when unpopulated (20_memory.md R52). -/
def Platform.kindAt (p : Platform) (a : Nat) : Option RegionKind := kindIn p.regions (a - a % 2)

end Sys2Proof.Config
end

