-- ==== Sys2Proof/Machine/Ops.lean ====
section
/-! DEFINITION. The operations over memory, registers, the program counter and the CRU (00_scope.md R15), the context
switch, interrupts, the error interrupt and the return (60_exceptions.md). An operation reads and changes the state or
stops. -/

namespace Sys2Proof.Machine

/-- How an operation stops. -/
inductive Stop where
  | fault (f : Fault)
  | refusal (r : Refusal)
  deriving DecidableEq, Repr

/-- An operation of the machine: it answers a value and the next state, or it stops. -/
abbrev Op (α : Type) := StateT State (Except Stop) α

/-- Stop. -/
def stop {α : Type} (e : Stop) : Op α := fun _ => .error e

/-- Change the state. -/
def update (f : State → State) : Op Unit := fun s => .ok ((), f s)

/-! ## Address translation (20_memory.md R62 to R67) -/

/-- The number of a map file (10_state.md R36). -/
inductive MapNo where
  | zero
  | one
  | two
  deriving DecidableEq, Repr

/-- The map file of a number. -/
def State.mapFile (s : State) : MapNo → MapFile
  | .zero => s.map0
  | .one => s.map1
  | .two => s.map2

/-- The 11-bit limit a limit register holds in one's complement form (20_memory.md R63). -/
def limitOf (l : Word) : BitVec 11 := (~~~l).extractLsb' 5 11

/-- The bias of the region an address falls in, none outside all three (20_memory.md R63, R64). -/
def MapFile.bias (m : MapFile) (a : Word) : Option Word :=
  let g := a.extractLsb' 5 11
  if g ≤ limitOf m.l1 then some m.b1
  else if g ≤ limitOf m.l2 then some m.b2
  else if g ≤ limitOf m.l3 then some m.b3
  else none

/-- The physical byte address of a logical address under a bias, modulo 2^21 (20_memory.md R66). -/
def biased (b a : Word) : Nat := ((b.setWidth 21 <<< 5) + a.setWidth 21).toNat

/-- Translate a logical address through a map file; without the map option it is the physical address (20_memory.md R51, R62). -/
def physical (s : State) (f : MapNo) (a : Word) : Except Stop Nat :=
  if s.plat.hasMap then
    match (s.mapFile f).bias a with
    | some b => .ok (biased b a)
    | none => .error (.fault .mapLimit)
  else .ok a.toNat

/-- Where an access goes: the kind of the physical word and the physical byte address (20_memory.md R52, R65). -/
def place (s : State) (f : MapNo) (a : Word) : Except Stop (Config.RegionKind × Nat) :=
  match physical s f a with
  | .error e => .error e
  | .ok p =>
    match s.plat.kindAt p with
    | some k => .ok (k, p)
    | none => .error (.fault .unpopulated)

/-- The map file ST.MF selects (20_memory.md R67). -/
def currentMap (s : State) : MapNo := if flag .mf s.st then .one else .zero

/-! ## Other agents that write memory (00_scope.md R19, 20_memory.md R74) -/

/-- Memory after another agent than the processor wrote bytes, in order; RAM alone takes them (20_memory.md R52; log 25). -/
def writtenBy (plat : Config.Platform) : List ByteWrite → Memory → Memory
  | [], m => m
  | w :: ws, m =>
    writtenBy plat ws (if plat.kindAt w.address.toNat = some .ram then m.setByte w.address.toNat w.value else m)

/-- The environment's turn, before a memory access of the processor: it writes what it has for this turn, nothing when it
has no more turns (20_memory.md R74; log 25). -/
def State.turn (s : State) : State :=
  (s.setMem (writtenBy s.plat (s.dmaEnv.headD []) s.mem)).setDmaEnv s.dmaEnv.tail

/-- A memory access of the processor: the environment's turn, then the access (20_memory.md R74). -/
def access {α : Type} (x : Op α) : Op α := fun s => x s.turn

/-! ## Memory accesses (20_memory.md R52 to R58) -/

/-- The even address of a word access (20_memory.md R57). -/
def evenAddress (a : Word) : Word := a &&& 0xFFFE

/-- Record an output event. -/
def State.emit (s : State) (e : Event) : State := s.setEvents (e :: s.events)

/-- `MemReadVia(f, a, 2)` (20_memory.md R55, R57, R67); a device register answers a free value (R53; log 7). -/
def readWord (f : MapNo) (a : Word) : Op Word := access fun s =>
  match place s f (evenAddress a) with
  | .error e => .error e
  | .ok (.ram, p) => .ok (s.mem.word p, s)
  | .ok (.rom, p) => .ok (s.mem.word p, s)
  | .ok (.device, p) =>
    let v := Config.deviceWord s.draws p
    .ok (v, (s.setDraws (s.draws + 1)).emit (.deviceReadWord p v))

/-- `MemReadVia(f, a, 1)` (20_memory.md R58). -/
def readByte (f : MapNo) (a : Word) : Op Byte := access fun s =>
  match place s f a with
  | .error e => .error e
  | .ok (.ram, p) => .ok (s.mem.byte p, s)
  | .ok (.rom, p) => .ok (s.mem.byte p, s)
  | .ok (.device, p) =>
    let v := Config.deviceByte s.draws p
    .ok (v, (s.setDraws (s.draws + 1)).emit (.deviceReadByte p v))

/-- `MemWriteVia(f, a, 2, v)`; ROM keeps its contents (20_memory.md R52) and a device register takes the value (R53). -/
def writeWord (f : MapNo) (a : Word) (v : Word) : Op Unit := access fun s =>
  match place s f (evenAddress a) with
  | .error e => .error e
  | .ok (.ram, p) => .ok ((), s.setMem (s.mem.setWord p v))
  | .ok (.rom, _) => .ok ((), s)
  | .ok (.device, p) => .ok ((), s.emit (.deviceWriteWord p v))

/-- `MemWriteVia(f, a, 1, v)` (20_memory.md R52, R53, R58). -/
def writeByte (f : MapNo) (a : Word) (v : Byte) : Op Unit := access fun s =>
  match place s f a with
  | .error e => .error e
  | .ok (.ram, p) => .ok ((), s.setMem (s.mem.setByte p v))
  | .ok (.rom, _) => .ok ((), s)
  | .ok (.device, p) => .ok ((), s.emit (.deviceWriteByte p v))

/-- `MemRead(a, 2)` through the map in force (00_scope.md R15). -/
def load (a : Word) : Op Word := fun s => readWord (currentMap s) a s

/-- `MemWrite(a, 2, v)` through the map in force (00_scope.md R15). -/
def store (a : Word) (v : Word) : Op Unit := fun s => writeWord (currentMap s) a v s

/-! ## Workspace registers (10_state.md R22) -/

/-- The address of workspace register r, modulo 2^16 (10_state.md R22). -/
def regAddress (s : State) (r : Reg) : Word := s.wp + 2 * r.setWidth 16

/-- `x[r]` (10_state.md R22). -/
def readReg (r : Reg) : Op Word := fun s => load (regAddress s r) s

/-- `x[r] <- v` (10_state.md R22). -/
def writeReg (r : Reg) (v : Word) : Op Unit := fun s => store (regAddress s r) v s

/-! ## Program counter and status -/

/-- `PC <- t`, which stores t with its low bit 0 (10_state.md R25). -/
def State.jump (s : State) (t : Word) : State := s.setPc (evenAddress t)

/-- `Fetch()`: the word at PC, and PC past it, modulo 2^16 (10_state.md R26, R27). -/
def fetch : Op Word := do
  let s ← get
  let v ← load s.pc
  update fun t => t.jump (s.pc + 2)
  pure v

/-- Apply a change to ST. -/
def setStatus (f : Word → Word) : Op Unit := update fun s => s.setSt (f s.st)

/-! ## The CRU and signals (20_memory.md R70 to R72) -/

/-- `cru_base`, TI bits 3 to 14 of R12 (20_memory.md R70). -/
def cruBase (r12 : Word) : BitVec 12 := r12.extractLsb' 1 12

/-- `CruOut(line, b)`: an event for the environment (20_memory.md R72). -/
def cruOut (line : BitVec 12) (b : Bool) : Op Unit := update fun s => s.emit (.cruOut line b)

/-- `CruIn(line)`: a bit the environment chooses (20_memory.md R72; log 6). -/
def cruIn (line : BitVec 12) : Op Bool := fun s =>
  let b := Config.cruInput s.draws line
  .ok (b, (s.setDraws (s.draws + 1)).emit (.cruIn line b))

/-- The n low bits of v onto n lines, ascending from `line`, least significant first, modulo 4096 (44_control_cru.md R209). -/
def cruOutBits : Nat → BitVec 12 → Word → Op Unit
  | 0, _, _ => pure ()
  | n + 1, line, v => do
    cruOut line (v.getLsbD 0)
    cruOutBits n (line + 1) (v >>> 1)

/-- n lines, ascending from `line`, into the n low bits of a word, zeros above (44_control_cru.md R210). -/
def cruInBits : Nat → BitVec 12 → Op Word
  | 0, _ => pure 0
  | n + 1, line => do
    let b ← cruIn line
    let rest ← cruInBits n (line + 1)
    pure ((rest <<< 1) ||| (if b then 1 else 0))

/-- The level last driven onto a CRU line, none when nothing has driven it (20_memory.md R70, R72). -/
def cruLine (line : BitVec 12) : List Event → Option Bool
  | [] => none
  | .cruOut l b :: rest => if l = line then some b else cruLine line rest
  | _ :: rest => cruLine line rest

/-- `Signal(name)` (00_scope.md R15). -/
def signal (c : Control) : Op Unit := update fun s => s.emit (.signal c)

/-! ## Privilege and the error interrupt (60_exceptions.md R315, R320) -/

/-- The Model 990/10 is in non-privileged state (60_exceptions.md R320). -/
def unprivileged (s : State) : Bool := s.plat.hasPrivilege && flag .pm s.st

/-- `raise ErrorInterrupt`: PC moves past the unfetched extension words and ERR is latched, nothing else
(60_exceptions.md R315). -/
def errorInterrupt (extension : Nat) : Op Unit :=
  update fun s => (s.jump (s.pc + BitVec.ofNat 16 (2 * extension))).setErr true

/-- Step 3 of 40_addressing.md R120: the body in privileged state, the error interrupt instead of it otherwise
(60_exceptions.md R316). -/
def whenPrivileged (extension : Nat) (body : Op Unit) : Op Unit := fun s =>
  if unprivileged s then errorInterrupt extension s else body s

/-! ## The context switch and the return (60_exceptions.md R300, 42_branch.md R164) -/

/-- `ContextSwitchWith(vec, oldWP, oldPC, oldST)` (60_exceptions.md R300): both vector words are read before anything is
written. An extended operation also writes its operand's address into the new R11, first (48_xop_longdistance.md R270). -/
def contextSwitch (vec oldWp oldPc oldSt : Word) (operand : Option Word) : Op Unit := do
  let newWp ← load vec
  let newPc ← load (vec + 2)
  match operand with
  | some a => store (newWp + 22) a
  | none => pure ()
  store (newWp + 26) oldWp
  store (newWp + 28) oldPc
  store (newWp + 30) oldSt
  update fun s => (s.setWp newWp).jump newPc

/-- ST with PM and MF cleared where the variant has them: entering privileged state and map file 0 (60_exceptions.md R301). -/
def supervisorStatus (s : State) : Word :=
  let st := if s.plat.hasPrivilege then setFlag .pm false s.st else s.st
  if s.plat.hasMap then setFlag .mf false st else st

/-- `RTWP`'s transfer: R13, R14 and R15, all read first, into WP, PC and ST; in non-privileged state only TI bits 0 to 6 of
ST (42_branch.md R164). -/
def restoreContext : Op Unit := do
  let w13 ← readReg 13
  let w14 ← readReg 14
  let w15 ← readReg 15
  update fun s =>
    let st := if unprivileged s then (s.st &&& 0x01FF) ||| (w15 &&& 0xFE00) else w15 &&& s.plat.stMask
    ((s.setSt st).setWp w13).jump w14

/-! ## Ending an instruction -/

/-- Run an instruction's body; the latch takes the value the body answers, and `none` but for LDS and LDD
(48_xop_longdistance.md R277). -/
def completeLatching (body : Op LongDistance) (s : State) : Host.Outcome State Fault Refusal :=
  match body s with
  | .ok (ld, t) => .next (t.setLd ld)
  | .error (.fault f) => .fault f
  | .error (.refusal r) => .refused r

/-- Run an instruction's body; at its end the latch is `none` (48_xop_longdistance.md R277). -/
def complete (body : Op Unit) (s : State) : Host.Outcome State Fault Refusal :=
  completeLatching (do body; pure .none) s

/-! ## Interrupts (60_exceptions.md R310 to R312) -/

/-- `req(L)` (60_exceptions.md R311): the environment's input, the error latch on level 2, the clock on its level. -/
def requested (s : State) (level : Nat) : Bool :=
  s.irq.getLsbD level || (level == 2 && s.err) || (s.plat.clockLevel == some level && s.clken && s.clk)

/-- The level taken at this boundary: the lowest-numbered requested one that the mask enables, none after LDS and LDD
(60_exceptions.md R311, R312). -/
def pendingLevel (s : State) : Option Nat :=
  if s.ld = .none then
    (List.range s.plat.levels).find? fun l => requested s l && decide (l ≤ (maskOf s.st).toNat)
  else none

/-- Taking an interrupt of a level (60_exceptions.md R310). Level 0 is reset, which also clears ERR and CLKEN
(70_reset_and_hazards.md R340, R341; log 17). -/
def takeInterrupt (level : Nat) : State → Host.Outcome State Fault Refusal :=
  complete do
    let s ← get
    update fun t => t.setSt (supervisorStatus t)
    contextSwitch (BitVec.ofNat 16 (4 * level)) s.wp s.pc s.st none
    setStatus (setMask (BitVec.ofNat 4 (level - 1)))
    update fun t => t.setIdle false
    if level = 2 then update fun t => t.setErr false
    if level = 0 then update fun t => (t.setErr false).setClken false

/-- Reset: the level-0 interrupt of a machine whose state before is whatever it is (70_reset_and_hazards.md R340). -/
def powerOn (s : State) : Host.Outcome State Fault Refusal := takeInterrupt 0 s

end Sys2Proof.Machine
end

