-- ==== Sys2Proof/Machine/Operands.lean ====
section
/-! DEFINITION. General addresses (40_addressing.md R120 to R128) and the operand shapes the instructions share. -/

namespace Sys2Proof.Machine

/-! ## Effective addresses -/

/-- `size` of an operand (40_addressing.md R120). -/
inductive Size where
  | byte
  | word
  deriving DecidableEq, Repr

/-- The bytes of a size, which is the autoincrement step (40_addressing.md R125). -/
def Size.bytes : Size → Word
  | .byte => 1
  | .word => 2

/-- The operand is the word of the register that addresses it (40_addressing.md R126). -/
def selfReference (s : State) (r : Reg) (a : Word) : Bool := evenAddress a == evenAddress (regAddress s r)

/-- `EA(T, R, size)` (40_addressing.md R121), with the refusal of R126. -/
def effectiveAddress : GenAddr → Op Word
  | .reg r => fun s => .ok (regAddress s r, s)
  | .ind r => readReg r
  | .sym => fetch
  | .idx r => do
    let base ← fetch
    let x ← readReg r
    pure (base + x)
  | .inc r => do
    let a ← readReg r
    let s ← get
    if selfReference s r a then stop (.refusal .autoincrementSelfReference) else pure a

/-- The autoincrement of mode 3 (40_addressing.md R125); `a` is the value the register had. -/
def autoincrement (g : GenAddr) (size : Size) (a : Word) : Op Unit :=
  match g with
  | .inc r => writeReg r (a + size.bytes)
  | _ => pure ()

/-! ## Operand locations (20_memory.md R67, 48_xop_longdistance.md R277) -/

/-- Where an operand is: the map file its accesses use and its effective address. -/
structure Loc where
  file : MapNo
  addr : Word
  deriving DecidableEq, Repr

/-- The mode is workspace register addressing. -/
def isRegister : GenAddr → Bool
  | .reg _ => true
  | _ => false

/-- The map file of the accesses to the operand of a side: map file 2 when the latch names the side and the mode is not
0 (48_xop_longdistance.md R277). -/
def operandMap (s : State) (side : LongDistance) (g : GenAddr) : MapNo :=
  if s.ld = side && !isRegister g then .two else currentMap s

/-- An operand's location, before its autoincrement. -/
def locate (side : LongDistance) (g : GenAddr) : Op Loc := do
  let a ← effectiveAddress g
  fun s => .ok (⟨operandMap s side g, a⟩, s)

/-- An operand that is addressed and not read: address, autoincrement (40_addressing.md R120). -/
def operandAddress (side : LongDistance) (size : Size) (g : GenAddr) : Op Loc := do
  let l ← locate side g
  autoincrement g size l.addr
  pure l

/-- A word operand that is read: address, read, autoincrement (40_addressing.md R120). -/
def operandWord (side : LongDistance) (g : GenAddr) : Op (Loc × Word) := do
  let l ← locate side g
  let v ← readWord l.file l.addr
  autoincrement g .word l.addr
  pure (l, v)

/-- A byte operand that is read: address, read, autoincrement by one (40_addressing.md R120). -/
def operandByte (side : LongDistance) (g : GenAddr) : Op (Loc × Byte) := do
  let l ← locate side g
  let v ← readByte l.file l.addr
  autoincrement g .byte l.addr
  pure (l, v)

/-! ## Shapes of instructions (40_addressing.md R120, R128) -/

/-- Two word operands read, the result written to the destination, then the status (steps 5 to 9). -/
def binaryWord (gs gd : GenAddr) (k : Word → Word → Computed 16) : Op Unit := do
  let (_, src) ← operandWord .src gs
  let (da, dst) ← operandWord .dst gd
  let r := k src dst
  writeWord da.file da.addr r.value
  setStatus r.status

/-- Two byte operands read, the result written to the destination, then the status (steps 5 to 9). -/
def binaryByte (gs gd : GenAddr) (k : Byte → Byte → Computed 8) : Op Unit := do
  let (_, src) ← operandByte .src gs
  let (da, dst) ← operandByte .dst gd
  let r := k src dst
  writeByte da.file da.addr r.value
  setStatus r.status

/-- A word copied; the destination is not read (40_addressing.md R128). -/
def copyWord (gs gd : GenAddr) : Op Unit := do
  let (_, src) ← operandWord .src gs
  let da ← operandAddress .dst .word gd
  writeWord da.file da.addr src
  setStatus (Computed.logical src).status

/-- A byte copied; the destination is not read (40_addressing.md R128). -/
def copyByte (gs gd : GenAddr) : Op Unit := do
  let (_, src) ← operandByte .src gs
  let da ← operandAddress .dst .byte gd
  writeByte da.file da.addr src
  setStatus (Computed.logicalByte src).status

/-- Two word operands read and the status written (40_addressing.md R128). -/
def inspectWords (gs gd : GenAddr) (k : Word → Word → Word → Word) : Op Unit := do
  let (_, src) ← operandWord .src gs
  let (_, dst) ← operandWord .dst gd
  setStatus (k src dst)

/-- Two byte operands read and the status written (40_addressing.md R128). -/
def inspectBytes (gs gd : GenAddr) (k : Byte → Byte → Word → Word) : Op Unit := do
  let (_, src) ← operandByte .src gs
  let (_, dst) ← operandByte .dst gd
  setStatus (k src dst)

/-- One word operand read and written back at the same address, then the status (40_addressing.md R128). -/
def modifyWord (g : GenAddr) (k : Word → Computed 16) : Op Unit := do
  let (sa, a) ← operandWord .src g
  let r := k a
  writeWord sa.file sa.addr r.value
  setStatus r.status

/-- A word written to an operand that is not read; no status (40_addressing.md R128). -/
def fillWord (g : GenAddr) (v : Word) : Op Unit := do
  let sa ← operandAddress .src .word g
  writeWord sa.file sa.addr v

/-- A register and the immediate operand, the result written to the register (45_load_move.md R220, 41_arithmetic.md R142). -/
def immediateResult (w : Reg) (k : Word → Word → Computed 16) : Op Unit := do
  let iop ← fetch
  let a ← readReg w
  let r := k a iop
  writeReg w r.value
  setStatus r.status

/-- A general source and a register, which is read after it, the status written (43_compare.md R193). -/
def inspectRegister (g : GenAddr) (d : Reg) (k : Word → Word → Word → Word) : Op Unit := do
  let (_, src) ← operandWord .src g
  let x ← readReg d
  setStatus (k src x)

/-- The shift count, 1 to 16 (47_shift.md R260). -/
def shiftCount (c : BitVec 4) : Op Nat :=
  if c != 0 then pure c.toNat
  else do
    let r0 ← readReg 0
    let c0 := (r0.extractLsb' 0 4).toNat
    pure (if c0 != 0 then c0 else 16)

/-- A shift: R0 if needed, the register read, written, then the status (47_shift.md R260). -/
def shiftRegister (w : Reg) (c : BitVec 4) (k : Word → Nat → Computed 16) : Op Unit := do
  let n ← shiftCount c
  let a ← readReg w
  let r := k a n
  writeReg w r.value
  setStatus r.status

/-- A conditional jump (42_branch.md R165). -/
def jumpIf (cond : Word → Bool) (disp : BitVec 8) : Op Unit :=
  update fun s => if cond s.st then s.jump (s.pc + 2 * disp.signExtend 16) else s

/-- A control instruction of the Model 990 computers that is privileged on the Model 990/10 and only signals on the TMS9900
(44_control_cru.md R205). -/
def control (c : Control) (body : Op Unit) : Op Unit := fun s =>
  if s.plat.isTms then signal c s else whenPrivileged 0 body s

/-- The line of a single-bit CRU instruction, modulo 4096 (20_memory.md R71). -/
def cruBitLine (r12 : Word) (disp : BitVec 8) : BitVec 12 := cruBase r12 + disp.signExtend 12

/-- The line is in the privileged region (20_memory.md R73). -/
def cruPrivileged (line : BitVec 12) : Bool := 0xE00 ≤ line.toNat

/-- The body, or the error interrupt when the line is privileged and the state is not (20_memory.md R73). -/
def withCruLine (line : BitVec 12) (extension : Nat) (body : Op Unit) : Op Unit :=
  if cruPrivileged line then whenPrivileged extension body else body

/-- The number of bits of a multi-bit transfer (30_encoding.md R96). -/
def cruCount (c : BitVec 4) : Nat := if c = 0 then 16 else c.toNat

/-- Six words from consecutive word addresses (45_load_move.md R224). -/
def loadMapFile (l : Loc) : Op MapFile := do
  let l1 ← readWord l.file l.addr
  let b1 ← readWord l.file (l.addr + 2)
  let l2 ← readWord l.file (l.addr + 4)
  let b2 ← readWord l.file (l.addr + 6)
  let l3 ← readWord l.file (l.addr + 8)
  let b3 ← readWord l.file (l.addr + 10)
  pure ⟨l1, b1, l2, b2, l3, b3⟩

/-- An instruction of the map option: an undefined op code elsewhere (30_encoding.md R108). -/
def withMapOption {α : Type} (body : Op α) : Op α := fun s =>
  if s.plat.hasMap then body s else .error (.refusal .undefinedOpcode)

/-- LDS and LDD: map file 2 loaded from the operand and the latch set, or the error interrupt (48_xop_longdistance.md R275,
R276). Answers the latch of the next instruction. -/
def longDistance (g : GenAddr) (next : LongDistance) : Op LongDistance := withMapOption fun s =>
  if unprivileged s then (do errorInterrupt g.extWords; pure .none : Op LongDistance) s
  else (do
    let l ← operandAddress .src .word g
    let m ← loadMapFile l
    update fun t => t.setMap2 m
    pure next : Op LongDistance) s

end Sys2Proof.Machine
end

