-- ==== Sys2Proof/Machine/Arithmetic.lean ====
section
/-! DEFINITION. The thirteen arithmetic instructions (41_arithmetic.md R140 to R152). -/

namespace Sys2Proof.Machine

open Host (Outcome)

/-- A, Add Words (41_arithmetic.md R140). -/
def execA (gs gd : GenAddr) (s : State) : Outcome State Fault Refusal :=
  complete (binaryWord gs gd fun src dst => .arithmetic (add src dst)) s

/-- AB, Add Bytes (41_arithmetic.md R141). -/
def execAb (gs gd : GenAddr) (s : State) : Outcome State Fault Refusal :=
  complete (binaryByte gs gd fun src dst => .arithmeticByte (add src dst)) s

/-- AI, Add Immediate (41_arithmetic.md R142). -/
def execAi (w : Reg) (s : State) : Outcome State Fault Refusal :=
  complete (immediateResult w fun a iop => .arithmetic (add a iop)) s

/-- S, Subtract Words: destination minus source (41_arithmetic.md R143). -/
def execS (gs gd : GenAddr) (s : State) : Outcome State Fault Refusal :=
  complete (binaryWord gs gd fun src dst => .arithmetic (sub dst src)) s

/-- SB, Subtract Bytes: destination minus source (41_arithmetic.md R144). -/
def execSb (gs gd : GenAddr) (s : State) : Outcome State Fault Refusal :=
  complete (binaryByte gs gd fun src dst => .arithmeticByte (sub dst src)) s

/-- MPY, Multiply: the 32-bit unsigned product, its halves at WP + 2D and WP + 2D + 2 (41_arithmetic.md R145; D = 15: log 14). -/
def execMpy (g : GenAddr) (d : Reg) (s : State) : Outcome State Fault Refusal :=
  complete (do
    let (_, src) ← operandWord .src g
    let x ← readReg d
    let p : BitVec 32 := src.setWidth 32 * x.setWidth 32
    let t ← get
    store (regAddress t d) (p.extractLsb' 16 16)
    store (regAddress t d + 2) (p.extractLsb' 0 16)) s

/-- DIV, Divide: OV alone when the quotient needs more than 16 bits, which takes in a divisor of 0 (41_arithmetic.md R146;
log 13, log 14). -/
def execDiv (g : GenAddr) (d : Reg) (s : State) : Outcome State Fault Refusal :=
  complete (do
    let (_, dv) ← operandWord .src g
    let t ← get
    let hi ← load (regAddress t d)
    if dv ≤ hi then setStatus (setFlag .ov true)
    else do
      let lo ← load (regAddress t d + 2)
      let n : BitVec 32 := hi ++ lo
      store (regAddress t d) ((n / dv.setWidth 32).setWidth 16)
      store (regAddress t d + 2) ((n % dv.setWidth 32).setWidth 16)
      setStatus (setFlag .ov false)) s

/-- INC, Increment (41_arithmetic.md R147). -/
def execInc (g : GenAddr) (s : State) : Outcome State Fault Refusal :=
  complete (modifyWord g fun a => .arithmetic (add a 1)) s

/-- INCT, Increment by Two (41_arithmetic.md R148). -/
def execInct (g : GenAddr) (s : State) : Outcome State Fault Refusal :=
  complete (modifyWord g fun a => .arithmetic (add a 2)) s

/-- DEC, Decrement (41_arithmetic.md R149). -/
def execDec (g : GenAddr) (s : State) : Outcome State Fault Refusal :=
  complete (modifyWord g fun a => .arithmetic (sub a 1)) s

/-- DECT, Decrement by Two (41_arithmetic.md R150). -/
def execDect (g : GenAddr) (s : State) : Outcome State Fault Refusal :=
  complete (modifyWord g fun a => .arithmetic (sub a 2)) s

/-- ABS, Absolute Value: LGT, AGT, EQ of the ORIGINAL operand; C is the free value ABS_CARRY (41_arithmetic.md R151; log 8). -/
def execAbs (g : GenAddr) (s : State) : Outcome State Fault Refusal :=
  complete (modifyWord g fun a =>
    ⟨if a.msb then -a else a,
     fun st => setFlag .c (Config.absCarry a) (setFlag .ov (a == 0x8000) (compareToZero a st))⟩) s

/-- NEG, Negate: C is not written (41_arithmetic.md R152). -/
def execNeg (g : GenAddr) (s : State) : Outcome State Fault Refusal :=
  complete (modifyWord g fun a => ⟨-a, fun st => setFlag .ov (a == 0x8000) (compareToZero (-a) st)⟩) s

end Sys2Proof.Machine
end

