-- ==== Sys2Proof/Machine/Branch.lean ====
section
/-! DEFINITION. The branches through a general address, the return and the thirteen jumps (42_branch.md R160 to R178). X is in
Execute.lean. -/

namespace Sys2Proof.Machine

open Host (Outcome)

/-- B, Branch: the effective address becomes the PC (42_branch.md R160). -/
def execB (g : GenAddr) (s : State) : Outcome State Fault Refusal :=
  complete (do
    let l ← operandAddress .src .word g
    update fun t => t.jump l.addr) s

/-- BL, Branch and Link: R11 is written after the target is formed (42_branch.md R161). -/
def execBl (g : GenAddr) (s : State) : Outcome State Fault Refusal :=
  complete (do
    let l ← operandAddress .src .word g
    let t ← get
    writeReg 11 t.pc
    update fun t => t.jump l.addr) s

/-- BLWP, Branch and Load Workspace Pointer: a context switch through the vector at the operand (42_branch.md R162). -/
def execBlwp (g : GenAddr) (s : State) : Outcome State Fault Refusal :=
  complete (do
    let l ← operandAddress .src .word g
    let t ← get
    contextSwitch l.addr t.wp t.pc t.st none) s

/-- RTWP, Return with Workspace Pointer (42_branch.md R164). -/
def execRtwp (s : State) : Outcome State Fault Refusal :=
  complete restoreContext s

/-- JMP, Unconditional Jump (42_branch.md R165, R166). -/
def execJmp (disp : BitVec 8) (s : State) : Outcome State Fault Refusal :=
  complete (jumpIf (fun _ => true) disp) s

/-- JH, Jump if Logical High (42_branch.md R165, R167). -/
def execJh (disp : BitVec 8) (s : State) : Outcome State Fault Refusal :=
  complete (jumpIf (fun st => flag .lgt st && !flag .eq st) disp) s

/-- JL, Jump if Logical Low (42_branch.md R165, R168). -/
def execJl (disp : BitVec 8) (s : State) : Outcome State Fault Refusal :=
  complete (jumpIf (fun st => !flag .lgt st && !flag .eq st) disp) s

/-- JHE, Jump if High or Equal (42_branch.md R165, R169). -/
def execJhe (disp : BitVec 8) (s : State) : Outcome State Fault Refusal :=
  complete (jumpIf (fun st => flag .lgt st || flag .eq st) disp) s

/-- JLE, Jump if Low or Equal (42_branch.md R165, R170). -/
def execJle (disp : BitVec 8) (s : State) : Outcome State Fault Refusal :=
  complete (jumpIf (fun st => !flag .lgt st || flag .eq st) disp) s

/-- JGT, Jump if Greater Than (42_branch.md R165, R171). -/
def execJgt (disp : BitVec 8) (s : State) : Outcome State Fault Refusal :=
  complete (jumpIf (fun st => flag .agt st) disp) s

/-- JLT, Jump if Less Than (42_branch.md R165, R172). -/
def execJlt (disp : BitVec 8) (s : State) : Outcome State Fault Refusal :=
  complete (jumpIf (fun st => !flag .agt st && !flag .eq st) disp) s

/-- JEQ, Jump if Equal (42_branch.md R165, R173). -/
def execJeq (disp : BitVec 8) (s : State) : Outcome State Fault Refusal :=
  complete (jumpIf (fun st => flag .eq st) disp) s

/-- JNE, Jump if Not Equal (42_branch.md R165, R174). -/
def execJne (disp : BitVec 8) (s : State) : Outcome State Fault Refusal :=
  complete (jumpIf (fun st => !flag .eq st) disp) s

/-- JOC, Jump On Carry (42_branch.md R165, R175). -/
def execJoc (disp : BitVec 8) (s : State) : Outcome State Fault Refusal :=
  complete (jumpIf (fun st => flag .c st) disp) s

/-- JNC, Jump if No Carry (42_branch.md R165, R176). -/
def execJnc (disp : BitVec 8) (s : State) : Outcome State Fault Refusal :=
  complete (jumpIf (fun st => !flag .c st) disp) s

/-- JNO, Jump if No Overflow (42_branch.md R165, R177). -/
def execJno (disp : BitVec 8) (s : State) : Outcome State Fault Refusal :=
  complete (jumpIf (fun st => !flag .ov st) disp) s

/-- JOP, Jump if Odd Parity (42_branch.md R165, R178). -/
def execJop (disp : BitVec 8) (s : State) : Outcome State Fault Refusal :=
  complete (jumpIf (fun st => flag .op st) disp) s

end Sys2Proof.Machine
end

