-- ==== Sys2Proof/Machine/Compare.lean ====
section
/-! DEFINITION. The five compare instructions (43_compare.md R190 to R194). -/

namespace Sys2Proof.Machine

open Host (Outcome)

/-- C, Compare Words: source against destination (43_compare.md R190). -/
def execC (gs gd : GenAddr) (s : State) : Outcome State Fault Refusal :=
  complete (inspectWords gs gd compareOperands) s

/-- CB, Compare Bytes: OP is the parity of the source byte (43_compare.md R191; log 28). -/
def execCb (gs gd : GenAddr) (s : State) : Outcome State Fault Refusal :=
  complete (inspectBytes gs gd fun src dst st => setFlag .op (oddParity src) (compareOperands src dst st)) s

/-- CI, Compare Immediate: register against immediate (43_compare.md R192). -/
def execCi (w : Reg) (s : State) : Outcome State Fault Refusal :=
  complete (do
    let iop ← fetch
    let a ← readReg w
    setStatus (compareOperands a iop)) s

/-- COC, Compare Ones Corresponding: EQ alone (43_compare.md R193). -/
def execCoc (g : GenAddr) (d : Reg) (s : State) : Outcome State Fault Refusal :=
  complete (inspectRegister g d fun src x => setFlag .eq (src &&& x == src)) s

/-- CZC, Compare Zeros Corresponding: EQ alone (43_compare.md R194). -/
def execCzc (g : GenAddr) (d : Reg) (s : State) : Outcome State Fault Refusal :=
  complete (inspectRegister g d fun src x => setFlag .eq (src &&& x == 0)) s

end Sys2Proof.Machine
end

