-- ==== Sys2Proof/Machine/Control.lean ====
section
/-! DEFINITION. The five control instructions (44_control_cru.md R200 to R205). -/

namespace Sys2Proof.Machine

open Host (Outcome)

/-- RSET, Reset: mask, clock enable and error latch cleared, and the signal; on the TMS9900 the signal alone (44_control_cru.md R200,
R205; log 24). -/
def execRset (s : State) : Outcome State Fault Refusal :=
  complete (control .rset do
    setStatus (setMask 0)
    update fun t => (t.setClken false).setErr false
    signal .rset) s

/-- IDLE, Idle: the TMS9900 also signals (44_control_cru.md R201, R205). -/
def execIdle (s : State) : Outcome State Fault Refusal :=
  complete (whenPrivileged 0 do
    if s.plat.isTms then signal .idle
    update fun t => t.setIdle true) s

/-- CKOF, Clock Off (44_control_cru.md R202). -/
def execCkof (s : State) : Outcome State Fault Refusal :=
  complete (control .ckof (update fun t => t.setClken false)) s

/-- CKON, Clock On (44_control_cru.md R203). -/
def execCkon (s : State) : Outcome State Fault Refusal :=
  complete (control .ckon (update fun t => t.setClken true)) s

/-- LREX, Load or Restart Execution: a context switch through FFFC in map file 0, then the mask is 0 (44_control_cru.md R204). -/
def execLrex (s : State) : Outcome State Fault Refusal :=
  complete (control .lrex do
    let t ← get
    if t.plat.hasMap then setStatus (setFlag .mf false)
    contextSwitch 0xFFFC t.wp t.pc t.st none
    setStatus (setMask 0)) s

end Sys2Proof.Machine
end

