-- ==== Sys2Proof/Machine/Cru.lean ====
section
/-! DEFINITION. The five CRU instructions (44_control_cru.md R206 to R211). -/

namespace Sys2Proof.Machine

open Host (Outcome)

/-- SBO, Set Bit to Logic One (44_control_cru.md R206). -/
def execSbo (disp : BitVec 8) (s : State) : Outcome State Fault Refusal :=
  complete (do
    let r12 ← readReg 12
    let line := cruBitLine r12 disp
    withCruLine line 0 (cruOut line true)) s

/-- SBZ, Set Bit to Logic Zero (44_control_cru.md R207). -/
def execSbz (disp : BitVec 8) (s : State) : Outcome State Fault Refusal :=
  complete (do
    let r12 ← readReg 12
    let line := cruBitLine r12 disp
    withCruLine line 0 (cruOut line false)) s

/-- TB, Test Bit: EQ is the line's bit (44_control_cru.md R208; log 6). -/
def execTb (disp : BitVec 8) (s : State) : Outcome State Fault Refusal :=
  complete (do
    let r12 ← readReg 12
    let line := cruBitLine r12 disp
    withCruLine line 0 do
      let b ← cruIn line
      setStatus (setFlag .eq b)) s

/-- LDCR, Load CRU: the low bits of a byte (1 to 8 bits) or a word; the status is of the whole operand (44_control_cru.md R209;
log 22). -/
def execLdcr (g : GenAddr) (count : BitVec 4) (s : State) : Outcome State Fault Refusal :=
  complete (do
    let r12 ← readReg 12
    let n := cruCount count
    let base := cruBase r12
    withCruLine base g.extWords do
      if n ≤ 8 then do
        let (_, v) ← operandByte .src g
        cruOutBits n base (v.setWidth 16)
        setStatus (Computed.logicalByte v).status
      else do
        let (_, v) ← operandWord .src g
        cruOutBits n base v
        setStatus (Computed.logical v).status) s

/-- STCR, Store CRU: lines into the low bits of a byte (1 to 8 bits) or a word, zeros above (44_control_cru.md R210; log 22). -/
def execStcr (g : GenAddr) (count : BitVec 4) (s : State) : Outcome State Fault Refusal :=
  complete (do
    let r12 ← readReg 12
    let n := cruCount count
    let base := cruBase r12
    withCruLine base g.extWords do
      if n ≤ 8 then do
        let sa ← operandAddress .src .byte g
        let v ← cruInBits n base
        let b : Byte := v.setWidth 8
        writeByte sa.file sa.addr b
        setStatus (Computed.logicalByte b).status
      else do
        let sa ← operandAddress .src .word g
        let v ← cruInBits n base
        writeWord sa.file sa.addr v
        setStatus (Computed.logical v).status) s

end Sys2Proof.Machine
end

