-- ==== Sys2Proof/Machine/Module.lean ====
section
/-! DEFINITION. The user-supplied hardware modules of extended operations (00_scope.md R9, 48_xop_longdistance.md R271). -/

namespace Sys2Proof.Machine

/-- What a module leaves in memory, registers and status, which are all a module can change (48_xop_longdistance.md
R271; log 27). The bytes it writes to memory are in the order of the list. -/
structure ModuleResult where
  wp     : Word
  pc     : Word
  st     : Word
  map0   : MapFile
  map1   : MapFile
  map2   : MapFile
  err    : Bool
  idle   : Bool
  clken  : Bool
  writes : List ByteWrite
  deriving DecidableEq, Repr, Inhabited

/-- The state a module leaves: PC with its low bit 0 (10_state.md R25), no bit of ST outside ST_MASK (R33), and RAM alone
written (20_memory.md R52). -/
def State.afterModule (s : State) (r : ModuleResult) : State :=
  let memory := s.setMem (writtenBy s.plat r.writes s.mem)
  let registers := ((memory.setWp r.wp).jump r.pc).setSt (r.st &&& s.plat.stMask)
  let maps := ((registers.setMap0 r.map0).setMap1 r.map1).setMap2 r.map2
  ((maps.setErr r.err).setIdle r.idle).setClken r.clken

end Sys2Proof.Machine

namespace Sys2Proof.Config

/-- The function of each extended operation's hardware module, of the operation's number, the operand's address and the
machine's state (48_xop_longdistance.md R271). Free value, DESIGN CHOICE (log 27), safe. -/
opaque xopModule : BitVec 4 → Word → Machine.State → Machine.ModuleResult

end Sys2Proof.Config
end

