-- ==== Sys2Proof/Machine/Extended.lean ====
section
/-! DEFINITION. Extended operation and long distance addressing (48_xop_longdistance.md R270 to R278). -/

namespace Sys2Proof.Machine

open Host (Outcome)

/-- XOP, Extended Operation: the software trap through the vector at 0040 + 4n, with the operand's address in the new
R11 (48_xop_longdistance.md R270); or, without a context switch, what the connected module does, refused when the
installation does not supply its function (R271; log 27). -/
def execXop (g : GenAddr) (n : BitVec 4) (s : State) : Outcome State Fault Refusal :=
  complete (do
    let l ← operandAddress .src .word g
    let t ← get
    if t.plat.xopHardware n then
      if t.plat.xopSupplied n then update fun t => t.afterModule (Config.xopModule n l.addr t)
      else stop (.refusal .hardwareXop)
    else do
      update fun t => t.setSt (supervisorStatus t)
      contextSwitch (0x0040 + 4 * n.setWidth 16) t.wp t.pc t.st (some l.addr)
      setStatus (setFlag .x true)) s

/-- LDS, Long Distance Source (48_xop_longdistance.md R275). -/
def execLds (g : GenAddr) (s : State) : Outcome State Fault Refusal :=
  completeLatching (longDistance g .src) s

/-- LDD, Long Distance Destination (48_xop_longdistance.md R276). -/
def execLdd (g : GenAddr) (s : State) : Outcome State Fault Refusal :=
  completeLatching (longDistance g .dst) s

end Sys2Proof.Machine
end

