-- ==== Sys2Proof/Machine/LoadMove.lean ====
section
/-! DEFINITION. The nine load and move instructions (45_load_move.md R220 to R229). -/

namespace Sys2Proof.Machine

open Host (Outcome)

/-- LI, Load Immediate (45_load_move.md R220). -/
def execLi (w : Reg) (s : State) : Outcome State Fault Refusal :=
  complete (do
    let iop ← fetch
    writeReg w iop
    setStatus (compareToZero iop)) s

/-- LIMI, Load Interrupt Mask Immediate (45_load_move.md R222). -/
def execLimi (s : State) : Outcome State Fault Refusal :=
  complete (whenPrivileged 1 do
    let iop ← fetch
    setStatus (setMask (iop.extractLsb' 0 4))) s

/-- LWPI, Load Workspace Pointer Immediate (45_load_move.md R223). -/
def execLwpi (s : State) : Outcome State Fault Refusal :=
  complete (do
    let iop ← fetch
    update fun t => t.setWp iop) s

/-- LMF, Load Memory Map File: the six words at the address the register holds, into map file 0 or 1 (45_load_move.md R224). -/
def execLmf (m : BitVec 1) (w : Reg) (s : State) : Outcome State Fault Refusal :=
  complete (withMapOption (whenPrivileged 0 do
    let a ← readReg w
    let t ← get
    let f ← loadMapFile ⟨currentMap t, a⟩
    update fun t => if m = 0 then t.setMap0 f else t.setMap1 f)) s

/-- MOV, Move Word (45_load_move.md R225). -/
def execMov (gs gd : GenAddr) (s : State) : Outcome State Fault Refusal :=
  complete (copyWord gs gd) s

/-- MOVB, Move Byte (45_load_move.md R226). -/
def execMovb (gs gd : GenAddr) (s : State) : Outcome State Fault Refusal :=
  complete (copyByte gs gd) s

/-- SWPB, Swap Bytes: no status (45_load_move.md R227). -/
def execSwpb (g : GenAddr) (s : State) : Outcome State Fault Refusal :=
  complete (modifyWord g fun a => .silent (wordOf (rightByte a) (leftByte a))) s

/-- STST, Store Status (45_load_move.md R228). -/
def execStst (w : Reg) (s : State) : Outcome State Fault Refusal :=
  complete (writeReg w s.st) s

/-- STWP, Store Workspace Pointer (45_load_move.md R229). -/
def execStwp (w : Reg) (s : State) : Outcome State Fault Refusal :=
  complete (writeReg w s.wp) s

end Sys2Proof.Machine
end

