-- ==== Sys2Proof/Machine/Logical.lean ====
section
/-! DEFINITION. The ten logical instructions (46_logical.md R240 to R249). -/

namespace Sys2Proof.Machine

open Host (Outcome)

/-- ANDI, AND Immediate (46_logical.md R240). -/
def execAndi (w : Reg) (s : State) : Outcome State Fault Refusal :=
  complete (immediateResult w fun a iop => .logical (a &&& iop)) s

/-- ORI, OR Immediate (46_logical.md R241). -/
def execOri (w : Reg) (s : State) : Outcome State Fault Refusal :=
  complete (immediateResult w fun a iop => .logical (a ||| iop)) s

/-- XOR, Exclusive OR: the register is read after the source and its autoincrement (46_logical.md R242). -/
def execXor (g : GenAddr) (d : Reg) (s : State) : Outcome State Fault Refusal :=
  complete (do
    let (_, src) ← operandWord .src g
    let x ← readReg d
    let r := Computed.logical (src ^^^ x)
    writeReg d r.value
    setStatus r.status) s

/-- INV, Invert (46_logical.md R243). -/
def execInv (g : GenAddr) (s : State) : Outcome State Fault Refusal :=
  complete (modifyWord g fun a => .logical (~~~a)) s

/-- CLR, Clear: the operand is not read, no status (46_logical.md R244). -/
def execClr (g : GenAddr) (s : State) : Outcome State Fault Refusal :=
  complete (fillWord g 0x0000) s

/-- SETO, Set to Ones: the operand is not read, no status (46_logical.md R245). -/
def execSeto (g : GenAddr) (s : State) : Outcome State Fault Refusal :=
  complete (fillWord g 0xFFFF) s

/-- SOC, Set Ones Corresponding (46_logical.md R246). -/
def execSoc (gs gd : GenAddr) (s : State) : Outcome State Fault Refusal :=
  complete (binaryWord gs gd fun src dst => .logical (dst ||| src)) s

/-- SOCB, Set Ones Corresponding, Byte (46_logical.md R247). -/
def execSocb (gs gd : GenAddr) (s : State) : Outcome State Fault Refusal :=
  complete (binaryByte gs gd fun src dst => .logicalByte (dst ||| src)) s

/-- SZC, Set Zeros Corresponding (46_logical.md R248). -/
def execSzc (gs gd : GenAddr) (s : State) : Outcome State Fault Refusal :=
  complete (binaryWord gs gd fun src dst => .logical (dst &&& ~~~src)) s

/-- SZCB, Set Zeros Corresponding, Byte (46_logical.md R249). -/
def execSzcb (gs gd : GenAddr) (s : State) : Outcome State Fault Refusal :=
  complete (binaryByte gs gd fun src dst => .logicalByte (dst &&& ~~~src)) s

end Sys2Proof.Machine
end

