-- ==== Sys2Proof/Machine/Shift.lean ====
section
/-! DEFINITION. The four shift instructions (47_shift.md R260 to R264). -/

namespace Sys2Proof.Machine

open Host (Outcome)

/-- SRA, Shift Right Arithmetic (47_shift.md R261). -/
def execSra (w : Reg) (count : BitVec 4) (s : State) : Outcome State Fault Refusal :=
  complete (shiftRegister w count shiftRightArithmetic) s

/-- SLA, Shift Left Arithmetic (47_shift.md R262). -/
def execSla (w : Reg) (count : BitVec 4) (s : State) : Outcome State Fault Refusal :=
  complete (shiftRegister w count shiftLeftArithmetic) s

/-- SRL, Shift Right Logical (47_shift.md R263). -/
def execSrl (w : Reg) (count : BitVec 4) (s : State) : Outcome State Fault Refusal :=
  complete (shiftRegister w count shiftRightLogical) s

/-- SRC, Shift Right Circular (47_shift.md R264). -/
def execSrc (w : Reg) (count : BitVec 4) (s : State) : Outcome State Fault Refusal :=
  complete (shiftRegister w count shiftRightCircular) s

end Sys2Proof.Machine
end

