-- ==== Sys2Proof/Machine/Dispatch.lean ====
section
/-! DEFINITION. One arm per instruction (30_encoding.md R99). -/

namespace Sys2Proof.Machine

def exec (i : Instr) (s : State) : Host.Outcome State Fault Refusal :=
  match i with
  | .li w => Sys2Proof.Machine.execLi w s
  | .ai w => Sys2Proof.Machine.execAi w s
  | .andi w => Sys2Proof.Machine.execAndi w s
  | .ori w => Sys2Proof.Machine.execOri w s
  | .ci w => Sys2Proof.Machine.execCi w s
  | .stwp w => Sys2Proof.Machine.execStwp w s
  | .stst w => Sys2Proof.Machine.execStst w s
  | .lwpi => Sys2Proof.Machine.execLwpi s
  | .limi => Sys2Proof.Machine.execLimi s
  | .lmf m w => Sys2Proof.Machine.execLmf m w s
  | .idle => Sys2Proof.Machine.execIdle s
  | .rset => Sys2Proof.Machine.execRset s
  | .rtwp => Sys2Proof.Machine.execRtwp s
  | .ckon => Sys2Proof.Machine.execCkon s
  | .ckof => Sys2Proof.Machine.execCkof s
  | .lrex => Sys2Proof.Machine.execLrex s
  | .blwp g => Sys2Proof.Machine.execBlwp g s
  | .b g => Sys2Proof.Machine.execB g s
  | .x g => Sys2Proof.Machine.execX g s
  | .clr g => Sys2Proof.Machine.execClr g s
  | .neg g => Sys2Proof.Machine.execNeg g s
  | .inv g => Sys2Proof.Machine.execInv g s
  | .inc g => Sys2Proof.Machine.execInc g s
  | .inct g => Sys2Proof.Machine.execInct g s
  | .dec g => Sys2Proof.Machine.execDec g s
  | .dect g => Sys2Proof.Machine.execDect g s
  | .bl g => Sys2Proof.Machine.execBl g s
  | .swpb g => Sys2Proof.Machine.execSwpb g s
  | .seto g => Sys2Proof.Machine.execSeto g s
  | .abs g => Sys2Proof.Machine.execAbs g s
  | .lds g => Sys2Proof.Machine.execLds g s
  | .ldd g => Sys2Proof.Machine.execLdd g s
  | .sra w count => Sys2Proof.Machine.execSra w count s
  | .srl w count => Sys2Proof.Machine.execSrl w count s
  | .sla w count => Sys2Proof.Machine.execSla w count s
  | .src w count => Sys2Proof.Machine.execSrc w count s
  | .jmp disp => Sys2Proof.Machine.execJmp disp s
  | .jlt disp => Sys2Proof.Machine.execJlt disp s
  | .jle disp => Sys2Proof.Machine.execJle disp s
  | .jeq disp => Sys2Proof.Machine.execJeq disp s
  | .jhe disp => Sys2Proof.Machine.execJhe disp s
  | .jgt disp => Sys2Proof.Machine.execJgt disp s
  | .jne disp => Sys2Proof.Machine.execJne disp s
  | .jnc disp => Sys2Proof.Machine.execJnc disp s
  | .joc disp => Sys2Proof.Machine.execJoc disp s
  | .jno disp => Sys2Proof.Machine.execJno disp s
  | .jl disp => Sys2Proof.Machine.execJl disp s
  | .jh disp => Sys2Proof.Machine.execJh disp s
  | .jop disp => Sys2Proof.Machine.execJop disp s
  | .sbo disp => Sys2Proof.Machine.execSbo disp s
  | .sbz disp => Sys2Proof.Machine.execSbz disp s
  | .tb disp => Sys2Proof.Machine.execTb disp s
  | .coc g d => Sys2Proof.Machine.execCoc g d s
  | .czc g d => Sys2Proof.Machine.execCzc g d s
  | .xor g d => Sys2Proof.Machine.execXor g d s
  | .xop g n => Sys2Proof.Machine.execXop g n s
  | .ldcr g count => Sys2Proof.Machine.execLdcr g count s
  | .stcr g count => Sys2Proof.Machine.execStcr g count s
  | .mpy g d => Sys2Proof.Machine.execMpy g d s
  | .div g d => Sys2Proof.Machine.execDiv g d s
  | .szc gs gd => Sys2Proof.Machine.execSzc gs gd s
  | .szcb gs gd => Sys2Proof.Machine.execSzcb gs gd s
  | .s gs gd => Sys2Proof.Machine.execS gs gd s
  | .sb gs gd => Sys2Proof.Machine.execSb gs gd s
  | .c gs gd => Sys2Proof.Machine.execC gs gd s
  | .cb gs gd => Sys2Proof.Machine.execCb gs gd s
  | .a gs gd => Sys2Proof.Machine.execA gs gd s
  | .ab gs gd => Sys2Proof.Machine.execAb gs gd s
  | .mov gs gd => Sys2Proof.Machine.execMov gs gd s
  | .movb gs gd => Sys2Proof.Machine.execMovb gs gd s
  | .soc gs gd => Sys2Proof.Machine.execSoc gs gd s
  | .socb gs gd => Sys2Proof.Machine.execSocb gs gd s

end Sys2Proof.Machine
end

