-- ==== Sys2Proof/Machine/Cycle.lean ====
section
/-! DEFINITION. What happens at an instruction boundary and the fetch of an instruction (40_addressing.md R120, 60_exceptions.md
R311). -/

namespace Sys2Proof.Machine

open Host (Outcome)

/-- The environment presents its next request sample; when it has none the inputs stay as they are (log 5). -/
def sampleInputs (s : State) : State :=
  match s.irqEnv with
  | [] => s
  | r :: rest => ((s.setIrq r.irq).setClk r.clk).setIrqEnv rest

/-- Fetch the instruction word, decode it and execute it (40_addressing.md R120 steps 1 and 2); an undefined op code is
refused (30_encoding.md R108). -/
def fetchAndExecute (s : State) : Outcome State Fault Refusal :=
  match fetch s with
  | .error (.fault f) => .fault f
  | .error (.refusal r) => .refused r
  | .ok (ir, t) =>
    match decodeWord ir with
    | .error _ => .refused .undefinedOpcode
    | .ok i => exec i t

/-- One step: the boundary first, which may take an interrupt; otherwise an idle processor stays idle and another executes
one instruction (60_exceptions.md R311, 44_control_cru.md R201). -/
def cycle (s : State) : Outcome State Fault Refusal :=
  match pendingLevel s with
  | some level => takeInterrupt level s
  | none => if s.idle then .next s else fetchAndExecute s

/-- Put a word into memory where a fetch at logical address a would read it. -/
def placeWord (a v : Word) (s : State) : State :=
  match physical s (currentMap s) (evenAddress a) with
  | .ok p => s.setMem (s.mem.setWord p v)
  | .error _ => s

/-- The state with whatever would keep its next step from fetching the placed words taken away: the idle flag, the memory
writes of other agents, and the requests if one of them would be taken (log 35). -/
def readyToFetch (s : State) : State :=
  let t := (s.setIdle false).setDmaEnv []
  match pendingLevel (sampleInputs t) with
  | some _ => (((t.setIrq 0).setClk false).setErr false).setIrqEnv []
  | none => t

/-- Place words from a logical address on. -/
def placeWords (a : Word) : List Word → State → State
  | [], s => s
  | v :: vs, s => placeWords (a + 2) vs (placeWord a v s)

end Sys2Proof.Machine
end

