-- ==== Sys2Proof/Machine/Step.lean ====
section
/-! DEFINITION. One step of the machine, and where its next instruction is fetched. -/

namespace Sys2Proof.Machine

/-- One step: the environment's request sample for this boundary, then the boundary and what follows it (60_exceptions.md
R311). -/
def step (s : State) : Host.Outcome State Fault Refusal := cycle (sampleInputs s)

/-- The state with an instruction, numbered as the opcode table numbers it, at PC, PC + 2 and PC + 4, so that the next step
runs it (log 31, log 35). -/
def State.withFetchWord (s : State) (nbits w : Nat) : State :=
  placeWords s.pc (tableWords nbits w) (readyToFetch s)

end Sys2Proof.Machine
end

