-- ==== Sys2Proof/Safety.lean ====
section
/-! DEFINITION. The terms claims about the machine are stated in: the invariant of its states, what memory holds, what a store
leaves, what a status word keeps. -/

namespace Sys2Proof.Machine

/-! ## The invariant -/

/-- Every listed byte lies in the physical space of 2^21 bytes (20_memory.md R51). -/
def Memory.inSpace (m : Memory) : Bool := m.all fun c => decide (c.1 < 0x200000)

/-- The states of the machine: memory in canonical form and inside the physical space; PC even (10_state.md R25); no
bit of ST outside ST_MASK (R33); the latch LD only with the map option (R37); ERR only on the Model 990/10 (R38); CLKEN never
on the TMS9900 (R40). -/
structure State.Inv (s : State) : Prop where
  memory   : s.mem.wf = true
  space    : s.mem.inSpace = true
  pcEven   : s.pc.getLsbD 0 = false
  status   : s.st &&& ~~~s.plat.stMask = 0
  latch    : s.plat.hasMap = false → s.ld = .none
  errorOn  : s.err = true → s.plat.hasPrivilege = true
  clockOn  : s.clken = true → s.plat.isTms = false

/-! ## What the environment writes (20_memory.md R74) -/

/-- No turn of the environment writes the byte at physical address q (log 25). -/
def State.Quiet (s : State) (q : Nat) : Prop := ∀ turn ∈ s.dmaEnv, ∀ w ∈ turn, w.address.toNat ≠ q

/-- The bytes another agent wrote took memory from m to n: a RAM byte has the last value written to it, and every other byte is as
before (20_memory.md R52, R74). -/
def BytesWritten (plat : Config.Platform) (writes : List ByteWrite) (m n : Memory) : Prop :=
  (∀ q, (∀ w ∈ writes, w.address.toNat ≠ q) ∨ plat.kindAt q ≠ some .ram → n.byte q = m.byte q) ∧
  ∀ first w rest, writes = first ++ w :: rest → (∀ x ∈ rest, x.address ≠ w.address) →
    plat.kindAt w.address.toNat = some .ram → n.byte w.address.toNat = w.value

/-! ## What memory holds -/

/-- The word at logical address a, through map file f, is the RAM or ROM word v. -/
def HoldsWord (s : State) (f : MapNo) (a v : Word) : Prop :=
  ∃ k p, place s f (evenAddress a) = .ok (k, p) ∧ k ≠ .device ∧ s.mem.word p = v

/-- The byte at logical address a, through map file f, is the RAM or ROM byte v. -/
def HoldsByte (s : State) (f : MapNo) (a : Word) (v : Byte) : Prop :=
  ∃ k p, place s f a = .ok (k, p) ∧ k ≠ .device ∧ s.mem.byte p = v

/-- From s to t the word v was stored at physical address p of kind k, and no other byte of memory changed: RAM takes it,
ROM keeps its contents, a device register's write is an event (20_memory.md R52, R53). -/
def WordStored (k : Config.RegionKind) (p : Nat) (v : Word) (s t : State) : Prop :=
  (∀ q, q ≠ p → q ≠ p + 1 → t.mem.byte q = s.mem.byte q) ∧
  match k with
  | .ram => t.mem.word p = v ∧ t.events = s.events
  | .rom => t.mem = s.mem ∧ t.events = s.events
  | .device => t.mem = s.mem ∧ t.events = .deviceWriteWord p v :: s.events

/-- From s to t the byte v was stored at physical address p of kind k, and no other byte of memory changed (20_memory.md
R52, R53). -/
def ByteStored (k : Config.RegionKind) (p : Nat) (v : Byte) (s t : State) : Prop :=
  (∀ q, q ≠ p → t.mem.byte q = s.mem.byte q) ∧
  match k with
  | .ram => t.mem.byte p = v ∧ t.events = s.events
  | .rom => t.mem = s.mem ∧ t.events = s.events
  | .device => t.mem = s.mem ∧ t.events = .deviceWriteByte p v :: s.events

/-- The state after the environment's turn and the word v gone to physical address p of kind k: `WordStored` from `s.turn`
as a function, for the instructions that store several words in turn. -/
def storedWord (k : Config.RegionKind) (p : Nat) (v : Word) (s : State) : State :=
  match k with
  | .ram => s.turn.setMem (s.turn.mem.setWord p v)
  | .rom => s.turn
  | .device => s.turn.emit (.deviceWriteWord p v)

/-- The state after the environment's turn and the byte v gone to physical address p of kind k. -/
def storedByte (k : Config.RegionKind) (p : Nat) (v : Byte) (s : State) : State :=
  match k with
  | .ram => s.turn.setMem (s.turn.mem.setByte p v)
  | .rom => s.turn
  | .device => s.turn.emit (.deviceWriteByte p v)

/-- Where the three words of a context switch go: R13, R14 and R15 of the new workspace, through map file f
(60_exceptions.md R300). -/
structure SavePlaces (s : State) (f : MapNo) (newWp : Word) where
  k13 : Config.RegionKind
  p13 : Nat
  k14 : Config.RegionKind
  p14 : Nat
  k15 : Config.RegionKind
  p15 : Nat
  at13 : place s f (evenAddress (newWp + 26)) = .ok (k13, p13)
  at14 : place s f (evenAddress (newWp + 28)) = .ok (k14, p14)
  at15 : place s f (evenAddress (newWp + 30)) = .ok (k15, p15)

/-- The old WP, PC and ST stored in turn at those places (60_exceptions.md R300). -/
def SavePlaces.saved {s : State} {f : MapNo} {newWp : Word} (x : SavePlaces s f newWp) (wp pc st : Word) (u : State) : State :=
  storedWord x.k15 x.p15 st (storedWord x.k14 x.p14 pc (storedWord x.k13 x.p13 wp u))

/-- The address is none of the six bytes at those places. -/
def SavePlaces.Outside {s : State} {f : MapNo} {newWp : Word} (x : SavePlaces s f newWp) (q : Nat) : Prop :=
  q ≠ x.p13 ∧ q ≠ x.p13 + 1 ∧ q ≠ x.p14 ∧ q ≠ x.p14 + 1 ∧ q ≠ x.p15 ∧ q ≠ x.p15 + 1

/-! ## What stays -/

/-- What the evaluation of one operand can change: PC past an extension word, the two bytes of the register of mode 3, what
reading a device register does (40_addressing.md R121, R125), and what the environment writes in its turns. -/
structure OperandFrame (g : GenAddr) (s t : State) : Prop where
  plat   : t.plat = s.plat
  map0   : t.map0 = s.map0
  map1   : t.map1 = s.map1
  map2   : t.map2 = s.map2
  irq    : t.irq = s.irq
  clk    : t.clk = s.clk
  err    : t.err = s.err
  idle   : t.idle = s.idle
  clken  : t.clken = s.clken
  irqEnv : t.irqEnv = s.irqEnv
  wp     : t.wp = s.wp
  st     : t.st = s.st
  ld     : t.ld = s.ld
  dmaEnv : t.dmaEnv <:+ s.dmaEnv
  pc     : t.pc = if g.extWords = 0 then s.pc else evenAddress (s.pc + 2)
  memory : ∀ q, (∀ r k p, g = .inc r → place s (currentMap s) (evenAddress (regAddress s r)) = .ok (k, p) →
    q ≠ p ∧ q ≠ p + 1) → s.Quiet q → t.mem.byte q = s.mem.byte q

/-- Map files, the latches other than LD, the inputs, the platform, the environment's coming turns and the free-value counter are
as before. -/
structure SameSystem (s t : State) : Prop where
  plat   : t.plat = s.plat
  map0   : t.map0 = s.map0
  map1   : t.map1 = s.map1
  map2   : t.map2 = s.map2
  irq    : t.irq = s.irq
  clk    : t.clk = s.clk
  err    : t.err = s.err
  idle   : t.idle = s.idle
  clken  : t.clken = s.clken
  irqEnv : t.irqEnv = s.irqEnv
  dmaEnv : t.dmaEnv = s.dmaEnv
  draws  : t.draws = s.draws

/-- As `SameSystem`, WP too, and the latch LD is `none`, as after every instruction but LDS and LDD (48_xop_longdistance.md
R277). -/
structure SameContext (s t : State) : Prop where
  system : SameSystem s t
  wp     : t.wp = s.wp
  ld     : t.ld = .none

/-- The status word `new` has exactly the listed fields written, each with its value; every other bit is as in `old`
(40_addressing.md R130, 10_state.md R29). -/
def StatusWritten (old new : Word) (fields : List (Flag × Bool)) : Prop :=
  (∀ x ∈ fields, flag x.1 new = x.2) ∧
  ∀ i, i < 16 → (∀ x ∈ fields, x.1.bit ≠ i) → new.getLsbD i = old.getLsbD i

/-- The fields LGT, AGT, EQ of a comparison of a result to zero (40_addressing.md R131). -/
def zeroFields {w : Nat} (r : BitVec w) : List (Flag × Bool) :=
  [(.lgt, decide (0 < r.toNat)), (.agt, decide (0 < r.toInt)), (.eq, decide (r.toNat = 0))]

/-- The field OV of an exact result that should fit in two's complement (10_state.md R29). -/
def overflowField (w : Nat) (exact : Int) : Flag × Bool :=
  (.ov, decide (exact < -2 ^ (w - 1) ∨ 2 ^ (w - 1) ≤ exact))

/-- The parity field of a byte: the number of its one bits is odd (40_addressing.md R135). -/
def parityField (b : Byte) : Flag × Bool :=
  (.op, decide (((List.range 8).filter fun i => b.getLsbD i).length % 2 = 1))

/-! ## What an instruction does, u being the state its operands' evaluation leaves -/

/-- `exec i s` answers a state: from u, after the environment's turn, the word v is stored at the location's physical place,
exactly the listed fields of ST are written, the latch is `none`, and nothing else changes (40_addressing.md R120 steps 8 and
9, 20_memory.md R74). -/
def StoresWord (i : Instr) (s u : State) (l : Loc) (v : Word) (fields : List (Flag × Bool)) : Prop :=
  ∀ k p, place u l.file (evenAddress l.addr) = .ok (k, p) →
    ∃ t, exec i s = .next t ∧ WordStored k p v u.turn t ∧ SameContext u.turn t ∧ t.pc = u.pc ∧ StatusWritten u.st t.st fields

/-- As `StoresWord`, for a byte at exactly the location's address (20_memory.md R58). -/
def StoresByte (i : Instr) (s u : State) (l : Loc) (v : Byte) (fields : List (Flag × Bool)) : Prop :=
  ∀ k p, place u l.file l.addr = .ok (k, p) →
    ∃ t, exec i s = .next t ∧ ByteStored k p v u.turn t ∧ SameContext u.turn t ∧ t.pc = u.pc ∧ StatusWritten u.st t.st fields

/-- `exec i s` answers a state that is u with exactly the listed fields of ST written and the latch `none`; memory, WP, PC and
everything else are u's. -/
def WritesStatus (i : Instr) (s u : State) (fields : List (Flag × Bool)) : Prop :=
  ∃ t, exec i s = .next t ∧ t = (u.setSt t.st).setLd .none ∧ StatusWritten u.st t.st fields

/-- A jump from any state with an even PC answers a state that differs at most in PC and the latch: PC moves by twice the signed
displacement, modulo 2^16, exactly when the condition holds (42_branch.md R165). -/
def JumpsWhen (i : Instr) (disp : BitVec 8) (taken : State → Prop) : Prop :=
  ∀ s : State, s.pc.getLsbD 0 = false →
    ∃ t, exec i s = .next t ∧ t = (s.setPc t.pc).setLd .none ∧
      (taken s → (t.pc.toNat : Int) = ((s.pc.toNat : Int) + 2 * disp.toInt) % 65536) ∧ (¬ taken s → t.pc = s.pc)

/-- `exec i s` takes the error interrupt: u with PC past the given number of unfetched extension words, ERR latched and the
latch LD `none`, and nothing else changed (60_exceptions.md R315). u is s, or for a CRU instruction what reading R12 left. -/
def Traps (i : Instr) (s u : State) (extension : Nat) : Prop :=
  exec i s = .next (((u.setPc (evenAddress (u.pc + BitVec.ofNat 16 (2 * extension)))).setErr true).setLd .none)

/-- The shift count n, from the count field or else from the four low bits of R0, 16 when they are 0; s1 is the state after R0
was read if it was (47_shift.md R260). -/
def CountOf (c : BitVec 4) (s s1 : State) (n : Nat) : Prop :=
  (c ≠ 0 ∧ n = c.toNat ∧ s1 = s) ∨
  (c = 0 ∧ ∃ r0, readReg 0 s = .ok (r0, s1) ∧ n = if r0.toNat % 16 = 0 then 16 else r0.toNat % 16)

/-- The events of n lines driven, ascending from a base, with the low bits of v; newest first (44_control_cru.md R209). -/
def linesDriven (base n : Nat) (v : Word) : List Event :=
  ((List.range n).map fun i => Event.cruOut (BitVec.ofNat 12 (base + i)) (v.getLsbD i)).reverse

/-- The events of n lines read, ascending from a base, each answering its free value; newest first (44_control_cru.md R210). -/
def linesRead (base n draws : Nat) : List Event :=
  ((List.range n).map fun i =>
    Event.cruIn (BitVec.ofNat 12 (base + i)) (Config.cruInput (draws + i) (BitVec.ofNat 12 (base + i)))).reverse

/-- The fields an entry into privileged state and map file 0 writes, where the variant has them (60_exceptions.md R301). -/
def supervisorFields (s : State) : List (Flag × Bool) :=
  (if s.plat.hasPrivilege then [(.pm, false)] else []) ++ if s.plat.hasMap then [(.mf, false)] else []

/-- The status word `new` has the listed fields written and the mask m; every other bit is as in `old` (60_exceptions.md
R310). -/
def StatusAndMask (old new : Word) (fields : List (Flag × Bool)) (m : BitVec 4) : Prop :=
  maskOf new = m ∧ (∀ x ∈ fields, flag x.1 new = x.2) ∧
  ∀ i, 4 ≤ i → i < 16 → (∀ x ∈ fields, x.1.bit ≠ i) → new.getLsbD i = old.getLsbD i

/-- A step from s executes instruction i from state u: the word it fetches decodes to i, or to an X whose operand decodes to i
(40_addressing.md R120, 42_branch.md R183). -/
def Runs (s : State) (i : Instr) (u : State) : Prop :=
  ∃ w s1, fetch (sampleInputs s) = .ok (w, s1) ∧
    ((decodeWord w = .ok i ∧ (∀ g, i ≠ .x g) ∧ u = s1) ∨
      ∃ g l ir s2, decodeWord w = .ok (.x g) ∧ operandWord .src g s1 = .ok ((l, ir), s2) ∧ decodeWord ir = .ok i ∧
        (∀ g', i ≠ .x g') ∧ u = s2.setLd .none)

/-- Some accessible logical address translates through map file f to the physical byte q (20_memory.md R66, R68). -/
def Reaches (s : State) (f : MapNo) (q : Nat) : Prop := ∃ a, physical s f a = .ok q

end Sys2Proof.Machine
end

