-- ==== Sys2Proof/Certificates/Slice0/Obligations.lean ====
section
/-! DEFINITION. The statements about the model. In the statements about an instruction, s1, s2, ... are the states that the
evaluation of its operands and the reads it makes leave, in the order of 40_addressing.md R120; OperandEvaluationFrame says
what that evaluation can change. `turn` is what other agents write to memory before an access of the processor (20_memory.md R74,
decision D21; log 25): every access has one, AccessesByKind says what it does, and it is nothing when `dmaEnv` is empty. -/

open Sys2Proof Sys2Proof.Machine

/-- Reset values (10_state.md R42); that the reset sequence of 70_reset_and_hazards.md R340 leaves this state rests on the model's
choices, logs 2 and 3. -/
def Obligations.ResetState : Prop :=
  maskOf State.reset.st = 0 ∧ flag .pm State.reset.st = false ∧ flag .mf State.reset.st = false ∧
  State.reset.err = false ∧ State.reset.idle = false ∧ State.reset.clken = false ∧ State.reset.ld = .none ∧
  powerOn State.reset = .next State.reset

/-- The invariant of Safety.lean at reset. -/
def Obligations.InvariantAtReset : Prop :=
  State.reset.Inv

/-- Every step keeps the invariant (10_state.md R25, R33, R37, R38, R40). -/
def Obligations.InvariantKept : Prop :=
  ∀ s t : State, s.Inv → step s = .next t → t.Inv

/-- No bit of an encoding is dropped (30_encoding.md R80, R98). -/
def Obligations.DecodeEncodeAgree : Prop :=
  ∀ (a : Assembled) (rest : List Byte), a.wf = true → decode (encodeBytes a ++ rest) = .ok a

/-- Each word has one meaning (30_encoding.md R98, R99). -/
def Obligations.EncodeDecodeAgree : Prop :=
  ∀ (bs : List Byte) (a : Assembled), decode bs = .ok a →
  a.wf = true ∧ encodeBytes a = bs.take (2 * (1 + a.ext.length)) ∧ a.ext.length = a.instr.extWords

/-- Words of the spec's own examples (40_addressing.md R122, 44_control_cru.md R206, R209, 47_shift.md R262, 45_load_move.md R220,
R224, 48_xop_longdistance.md R270). Where the count of 3220 (LDCR) and the M of 0333 (LMF) stand is no reading of the source: R85
and R91 take it from general knowledge (G7), log 32, PRESUMED. -/
def Obligations.DecodedWords : Prop :=
  decodeWord 0xA185 = .ok (.a (.reg 5) (.reg 6)) ∧ decodeWord 0x4C45 = .ok (.szc (.reg 5) (.inc 1)) ∧
  decodeWord 0x16FD = .ok (.jne 0xFD) ∧ decodeWord 0x1D03 = .ok (.sbo 3) ∧ decodeWord 0x20A0 = .ok (.coc .sym 2) ∧
  decodeWord 0x3220 = .ok (.ldcr .sym 8) ∧ decodeWord 0x0A13 = .ok (.sla 3 1) ∧ decodeWord 0x0697 = .ok (.bl (.ind 7)) ∧
  decodeWord 0x0360 = .ok .rset ∧ decodeWord 0x0204 = .ok (.li 4) ∧ decodeWord 0x0333 = .ok (.lmf 1 3) ∧
  decodeWord 0x2FE0 = .ok (.xop .sym 15) ∧ decodeWord 0x07A0 = .ok (.lds .sym)

/-- Undefined op codes (30_encoding.md R108, R109); the refusal is the spec's decision D10. -/
def Obligations.UndefinedOpcodes : Prop :=
  (∀ w : Word, (∃ e, decodeWord w = .error e) ↔ ∀ i : Instr, w &&& (opcodeRow i).2 ≠ (opcodeRow i).1) ∧
  ∀ (s s1 : State) (w : Word), pendingLevel (sampleInputs s) = none → (sampleInputs s).idle = false →
    fetch (sampleInputs s) = .ok (w, s1) → (∀ i : Instr, w &&& (opcodeRow i).2 ≠ (opcodeRow i).1) →
    step s = .refused .undefinedOpcode

/-- Steps 1 and 2 of 40_addressing.md R120. `sampleInputs` presents this boundary's requests (log 5) and changes nothing else; `turn` is
the environment's turn before the fetch (20_memory.md R74; log 25). -/
def Obligations.StepRunsDecoded : Prop :=
  ∀ (s : State) (w : Word) (i : Instr), pendingLevel (sampleInputs s) = none → (sampleInputs s).idle = false →
    HoldsWord (sampleInputs s).turn (currentMap (sampleInputs s)) s.pc w → decodeWord w = .ok i →
    i.wf = true ∧ step s = exec i ((sampleInputs s).turn.setPc (evenAddress (s.pc + 2))) ∧
    ∃ irq clk env, sampleInputs s = ((s.setIrq irq).setClk clk).setIrqEnv env

/-- Recognition comes before the fetch (60_exceptions.md R311). That an idle processor with only masked requests stays idle is the
spec's decision D19, not its source: log 23, DEDUCED. -/
def Obligations.BoundaryOutcome : Prop :=
  (∀ (s : State) (level : Nat), pendingLevel (sampleInputs s) = some level → step s = takeInterrupt level (sampleInputs s)) ∧
  ∀ s : State, pendingLevel (sampleInputs s) = none → s.idle = true →
    step s = .next (sampleInputs s) ∧ (sampleInputs s).idle = true

/-- 60_exceptions.md R311, R312; that none is taken after LDS and LDD is decision D27. -/
def Obligations.LowestPendingLevel : Prop :=
  ∀ (s : State) (level : Nat), pendingLevel s = some level ↔
    s.ld = .none ∧ level < s.plat.levels ∧ level ≤ (maskOf s.st).toNat ∧
    (s.irq.getLsbD level = true ∨ (level = 2 ∧ s.err = true) ∨
      (s.plat.clockLevel = some level ∧ s.clken = true ∧ s.clk = true)) ∧
    ∀ m, m < level → s.irq.getLsbD m = false ∧ ¬ (m = 2 ∧ s.err = true) ∧
      ¬ (s.plat.clockLevel = some m ∧ s.clken = true ∧ s.clk = true)

/-- 60_exceptions.md R310; the order of the saves is decision D13, the map file of the vector D14, the mask of level 0 D12, and
what level 0 clears besides is log 17. -/
def Obligations.InterruptEntry : Prop :=
  ∀ (s s1 s2 : State) (level : Nat) (newWp newPc : Word) (x : SavePlaces s2 .zero newWp), level < 16 →
    readWord .zero (BitVec.ofNat 16 (4 * level)) s = .ok (newWp, s1) →
    readWord .zero (BitVec.ofNat 16 (4 * level) + 2) s1 = .ok (newPc, s2) →
    ∃ t, takeInterrupt level s = .next t ∧
      t = (((((((x.saved s.wp s.pc s.st s2).setSt t.st).setWp newWp).setPc (evenAddress newPc)).setIdle false).setErr
        (if level = 0 ∨ level = 2 then false else s.err)).setClken (if level = 0 then false else s.clken)).setLd .none ∧
      StatusAndMask s.st t.st (supervisorFields s) (BitVec.ofNat 4 (level - 1)) ∧
      ∀ q, x.Outside q → s.Quiet q → t.mem.byte q = s.mem.byte q

/-- Big-endian byte order (20_memory.md R55). -/
def Obligations.ByteOrder : Prop :=
  ∀ (s : State) (f : MapNo) (a v : Word),
    (HoldsWord s f a v ↔ HoldsByte s f (a &&& 0xFFFE) (v.extractLsb' 8 8) ∧ HoldsByte s f (a ||| 1) (v.extractLsb' 0 8)) ∧
    ∀ p, place s f (a &&& 0xFFFE) = .ok (.ram, p) → ∃ t, writeWord f a v s = .ok ((), t) ∧
      HoldsByte t f (a &&& 0xFFFE) (v.extractLsb' 8 8) ∧ HoldsByte t f (a ||| 1) (v.extractLsb' 0 8)

/-- 20_memory.md R52, R53, R65, R74; what ROM and unpopulated addresses do is decision D32, that other agents write memory between
the processor's accesses D21, and that their writes are a list of turns, which RAM alone takes, log 25. -/
def Obligations.AccessesByKind : Prop :=
  (∀ (s : State) (f : MapNo) (a v : Word) (k : Config.RegionKind) (p : Nat), place s f (a &&& 0xFFFE) = .ok (k, p) →
    writeWord f a v s = .ok ((), storedWord k p v s) ∧ WordStored k p v s.turn (storedWord k p v s) ∧
    (k = .ram → s.Quiet p → s.Quiet (p + 1) →
      readWord f a (storedWord k p v s) = .ok (v, (storedWord k p v s).turn)) ∧
    (k ≠ .device → readWord f a s = .ok (s.turn.mem.word p, s.turn)) ∧
    (k = .device → readWord f a s = .ok (Config.deviceWord s.draws p,
      (s.turn.setDraws (s.draws + 1)).emit (.deviceReadWord p (Config.deviceWord s.draws p))))) ∧
  (∀ (s : State) (f : MapNo) (a : Word) (v : Byte) (k : Config.RegionKind) (p : Nat), place s f a = .ok (k, p) →
    writeByte f a v s = .ok ((), storedByte k p v s) ∧ ByteStored k p v s.turn (storedByte k p v s) ∧
    (k = .ram → s.Quiet p → readByte f a (storedByte k p v s) = .ok (v, (storedByte k p v s).turn)) ∧
    (k ≠ .device → readByte f a s = .ok (s.turn.mem.byte p, s.turn)) ∧
    (k = .device → readByte f a s = .ok (Config.deviceByte s.draws p,
      (s.turn.setDraws (s.draws + 1)).emit (.deviceReadByte p (Config.deviceByte s.draws p))))) ∧
  (∀ (s : State) (f : MapNo) (a v : Word) (e : Stop), place s f (a &&& 0xFFFE) = .error e →
    readWord f a s = .error e ∧ writeWord f a v s = .error e) ∧
  (∀ (s : State) (f : MapNo) (a : Word) (v : Byte) (e : Stop), place s f a = .error e →
    readByte f a s = .error e ∧ writeByte f a v s = .error e) ∧
  (∀ (s : State) (f : MapNo) (a : Word) (p : Nat), physical s f a = .ok p → s.plat.kindAt p = none →
    place s f a = .error (.fault .unpopulated)) ∧
  (∀ s : State, s.dmaEnv = [] → s.turn = s) ∧
  ∀ (s : State) (now : List ByteWrite) (later : List (List ByteWrite)), s.dmaEnv = now :: later →
    s.turn = (s.setMem s.turn.mem).setDmaEnv later ∧ BytesWritten s.plat now s.mem s.turn.mem

/-- 20_memory.md R62 to R66; the granule, the reduction and the fault are decision D15. -/
def Obligations.AddressTranslation : Prop :=
  ∀ (s : State) (f : MapNo) (a : Word),
    (s.plat.hasMap = true →
      (a.toNat ≤ (~~~(s.mapFile f).l1 ||| 0x001F).toNat →
        physical s f a = .ok ((32 * (s.mapFile f).b1.toNat + a.toNat) % 2 ^ 21)) ∧
      ((~~~(s.mapFile f).l1 ||| 0x001F).toNat < a.toNat → a.toNat ≤ (~~~(s.mapFile f).l2 ||| 0x001F).toNat →
        physical s f a = .ok ((32 * (s.mapFile f).b2.toNat + a.toNat) % 2 ^ 21)) ∧
      ((~~~(s.mapFile f).l1 ||| 0x001F).toNat < a.toNat → (~~~(s.mapFile f).l2 ||| 0x001F).toNat < a.toNat →
        a.toNat ≤ (~~~(s.mapFile f).l3 ||| 0x001F).toNat →
        physical s f a = .ok ((32 * (s.mapFile f).b3.toNat + a.toNat) % 2 ^ 21)) ∧
      ((~~~(s.mapFile f).l1 ||| 0x001F).toNat < a.toNat → (~~~(s.mapFile f).l2 ||| 0x001F).toNat < a.toNat →
        (~~~(s.mapFile f).l3 ||| 0x001F).toNat < a.toNat → physical s f a = .error (.fault .mapLimit))) ∧
    (s.plat.hasMap = false → physical s f a = .ok a.toNat)

/-- The function `operandMap` (20_memory.md R67, 48_xop_longdistance.md R277). R277 excepts B, BL and BLWP, which do not use what it
answers: BLWP's vector goes through the file of ST.MF (BranchAndLoadWorkspace). That the test of the mode is a static one on the T
field is the spec's decision D27 (log 29). -/
def Obligations.MapFileChoice : Prop :=
  ∀ (s : State) (side : LongDistance) (g : GenAddr), side ≠ .none →
    ((s.ld = side ∧ ∀ r, g ≠ .reg r) → operandMap s side g = .two) ∧
    (¬ (s.ld = side ∧ ∀ r, g ≠ .reg r) → operandMap s side g = if flag .mf s.st then .one else .zero)

/-- 40_addressing.md R121 to R124, over memory the spec calls RAM or ROM; device registers are covered by AccessesByKind. One `turn`
for each access made (20_memory.md R74; log 25). -/
def Obligations.OperandModes : Prop :=
  ∀ (s : State) (side : LongDistance) (size : Size) (r : Reg) (a b v : Word) (c : Byte),
    (operandAddress side size (.reg r) s = .ok (⟨operandMap s side (.reg r), s.wp + 2 * r.setWidth 16⟩, s) ∧
      (HoldsWord s.turn (operandMap s side (.reg r)) (s.wp + 2 * r.setWidth 16) v →
        operandWord side (.reg r) s = .ok ((⟨operandMap s side (.reg r), s.wp + 2 * r.setWidth 16⟩, v), s.turn)) ∧
      (HoldsByte s.turn (operandMap s side (.reg r)) (s.wp + 2 * r.setWidth 16) c →
        operandByte side (.reg r) s = .ok ((⟨operandMap s side (.reg r), s.wp + 2 * r.setWidth 16⟩, c), s.turn))) ∧
    (HoldsWord s.turn (currentMap s) (s.wp + 2 * r.setWidth 16) a →
      operandAddress side size (.ind r) s = .ok (⟨operandMap s side (.ind r), a⟩, s.turn) ∧
      (HoldsWord s.turn.turn (operandMap s side (.ind r)) a v →
        operandWord side (.ind r) s = .ok ((⟨operandMap s side (.ind r), a⟩, v), s.turn.turn)) ∧
      (HoldsByte s.turn.turn (operandMap s side (.ind r)) a c →
        operandByte side (.ind r) s = .ok ((⟨operandMap s side (.ind r), a⟩, c), s.turn.turn))) ∧
    (HoldsWord s.turn (currentMap s) s.pc b →
      operandAddress side size .sym s = .ok (⟨operandMap s side .sym, b⟩, s.turn.setPc (evenAddress (s.pc + 2))) ∧
      (HoldsWord s.turn.turn (operandMap s side .sym) b v →
        operandWord side .sym s = .ok ((⟨operandMap s side .sym, b⟩, v), s.turn.turn.setPc (evenAddress (s.pc + 2)))) ∧
      (HoldsByte s.turn.turn (operandMap s side .sym) b c →
        operandByte side .sym s = .ok ((⟨operandMap s side .sym, b⟩, c), s.turn.turn.setPc (evenAddress (s.pc + 2))))) ∧
    (HoldsWord s.turn (currentMap s) s.pc b → HoldsWord s.turn.turn (currentMap s) (s.wp + 2 * r.setWidth 16) a →
      operandAddress side size (.idx r) s =
        .ok (⟨operandMap s side (.idx r), b + a⟩, s.turn.turn.setPc (evenAddress (s.pc + 2))) ∧
      (HoldsWord s.turn.turn.turn (operandMap s side (.idx r)) (b + a) v →
        operandWord side (.idx r) s =
          .ok ((⟨operandMap s side (.idx r), b + a⟩, v), s.turn.turn.turn.setPc (evenAddress (s.pc + 2)))) ∧
      (HoldsByte s.turn.turn.turn (operandMap s side (.idx r)) (b + a) c →
        operandByte side (.idx r) s =
          .ok ((⟨operandMap s side (.idx r), b + a⟩, c), s.turn.turn.turn.setPc (evenAddress (s.pc + 2)))))

/-- 40_addressing.md R125; one turn of the environment before each access (20_memory.md R74; log 25). -/
def Obligations.Autoincrement : Prop :=
  ∀ (s : State) (side : LongDistance) (r : Reg) (a v : Word) (c : Byte) (k : Config.RegionKind) (p : Nat),
    HoldsWord s.turn (currentMap s) (s.wp + 2 * r.setWidth 16) a → evenAddress a ≠ evenAddress (s.wp + 2 * r.setWidth 16) →
    place s (currentMap s) (evenAddress (s.wp + 2 * r.setWidth 16)) = .ok (k, p) →
    (HoldsWord s.turn.turn (operandMap s side (.inc r)) a v →
      operandWord side (.inc r) s = .ok ((⟨operandMap s side (.inc r), a⟩, v), storedWord k p (a + 2) s.turn.turn)) ∧
    (HoldsByte s.turn.turn (operandMap s side (.inc r)) a c →
      operandByte side (.inc r) s = .ok ((⟨operandMap s side (.inc r), a⟩, c), storedWord k p (a + 1) s.turn.turn)) ∧
    operandAddress side .word (.inc r) s = .ok (⟨operandMap s side (.inc r), a⟩, storedWord k p (a + 2) s.turn) ∧
    operandAddress side .byte (.inc r) s = .ok (⟨operandMap s side (.inc r), a⟩, storedWord k p (a + 1) s.turn)

/-- The frame of 40_addressing.md R121: the s2 of the instruction statements differs from s by this alone, once per operand. -/
def Obligations.OperandEvaluationFrame : Prop :=
  ∀ (s s1 : State) (side : LongDistance) (g : GenAddr) (l : Loc) (v : Word) (c : Byte) (size : Size),
    (operandWord side g s = .ok ((l, v), s1) → OperandFrame g s s1) ∧
    (operandByte side g s = .ok ((l, c), s1) → OperandFrame g s s1) ∧
    (operandAddress side size g s = .ok (l, s1) → OperandFrame g s s1)

/-- The spec's own refusals: decisions D5, D17, D10, D25. -/
def Obligations.RefusedForms : Prop :=
  (∀ (s s1 : State) (side : LongDistance) (size : Size) (r : Reg) (a : Word), readReg r s = .ok (a, s1) →
    evenAddress a = evenAddress (s.wp + 2 * r.setWidth 16) →
    operandWord side (.inc r) s = .error (.refusal .autoincrementSelfReference) ∧
    operandByte side (.inc r) s = .error (.refusal .autoincrementSelfReference) ∧
    operandAddress side size (.inc r) s = .error (.refusal .autoincrementSelfReference)) ∧
  (∀ (s s1 : State) (g g' : GenAddr) (l : Loc) (ir : Word), operandWord .src g s = .ok ((l, ir), s1) →
    decodeWord ir = .ok (.x g') → exec (.x g) s = .refused .nestedExecute) ∧
  (∀ (s s1 : State) (g : GenAddr) (l : Loc) (ir : Word) (e : DecodeError), operandWord .src g s = .ok ((l, ir), s1) →
    decodeWord ir = .error e → exec (.x g) s = .refused .undefinedOpcode) ∧
  (∀ (s : State) (m : BitVec 1) (w : Reg) (g : GenAddr), s.plat.hasMap = false →
    exec (.lmf m w) s = .refused .undefinedOpcode ∧ exec (.lds g) s = .refused .undefinedOpcode ∧
    exec (.ldd g) s = .refused .undefinedOpcode) ∧
  ∀ (s s1 : State) (g : GenAddr) (n : BitVec 4) (l : Loc), operandAddress .src .word g s = .ok (l, s1) →
    s.plat.xopHardware n = true → s.plat.xopSupplied n = false → exec (.xop g n) s = .refused .hardwareXop

/-- A (41_arithmetic.md R140). -/
def Obligations.AddWords : Prop :=
  ∀ (gs gd : GenAddr) (s s1 s2 : State) (sl dl : Loc) (src dst : Word),
    operandWord .src gs s = .ok ((sl, src), s1) → operandWord .dst gd s1 = .ok ((dl, dst), s2) →
    StoresWord (.a gs gd) s s2 dl (src + dst) (zeroFields (src + dst) ++
      [(.c, decide (2 ^ 16 ≤ src.toNat + dst.toNat)), overflowField 16 (src.toInt + dst.toInt)])

/-- AB (41_arithmetic.md R141). -/
def Obligations.AddBytes : Prop :=
  ∀ (gs gd : GenAddr) (s s1 s2 : State) (sl dl : Loc) (src dst : Byte),
    operandByte .src gs s = .ok ((sl, src), s1) → operandByte .dst gd s1 = .ok ((dl, dst), s2) →
    StoresByte (.ab gs gd) s s2 dl (src + dst) (zeroFields (src + dst) ++
      [(.c, decide (2 ^ 8 ≤ src.toNat + dst.toNat)), overflowField 8 (src.toInt + dst.toInt), parityField (src + dst)])

/-- S and SB (41_arithmetic.md R143, R144); the sense of C is the spec's decision D6 (log 12). -/
def Obligations.SubtractOperands : Prop :=
  (∀ (gs gd : GenAddr) (s s1 s2 : State) (sl dl : Loc) (src dst : Word),
    operandWord .src gs s = .ok ((sl, src), s1) → operandWord .dst gd s1 = .ok ((dl, dst), s2) →
    StoresWord (.s gs gd) s s2 dl (dst - src) (zeroFields (dst - src) ++
      [(.c, decide (src.toNat ≤ dst.toNat)), overflowField 16 (dst.toInt - src.toInt)])) ∧
  ∀ (gs gd : GenAddr) (s s1 s2 : State) (sl dl : Loc) (src dst : Byte),
    operandByte .src gs s = .ok ((sl, src), s1) → operandByte .dst gd s1 = .ok ((dl, dst), s2) →
    StoresByte (.sb gs gd) s s2 dl (dst - src) (zeroFields (dst - src) ++
      [(.c, decide (src.toNat ≤ dst.toNat)), overflowField 8 (dst.toInt - src.toInt), parityField (dst - src)])

/-- SOC and SZC (46_logical.md R246, R248). -/
def Obligations.SetBitsWords : Prop :=
  ∀ (gs gd : GenAddr) (s s1 s2 : State) (sl dl : Loc) (src dst : Word),
    operandWord .src gs s = .ok ((sl, src), s1) → operandWord .dst gd s1 = .ok ((dl, dst), s2) →
    StoresWord (.soc gs gd) s s2 dl (dst ||| src) (zeroFields (dst ||| src)) ∧
    StoresWord (.szc gs gd) s s2 dl (dst &&& ~~~src) (zeroFields (dst &&& ~~~src))

/-- SOCB and SZCB (46_logical.md R247, R249). -/
def Obligations.SetBitsBytes : Prop :=
  ∀ (gs gd : GenAddr) (s s1 s2 : State) (sl dl : Loc) (src dst : Byte),
    operandByte .src gs s = .ok ((sl, src), s1) → operandByte .dst gd s1 = .ok ((dl, dst), s2) →
    StoresByte (.socb gs gd) s s2 dl (dst ||| src) (zeroFields (dst ||| src) ++ [parityField (dst ||| src)]) ∧
    StoresByte (.szcb gs gd) s s2 dl (dst &&& ~~~src) (zeroFields (dst &&& ~~~src) ++ [parityField (dst &&& ~~~src)])

/-- MOV and MOVB (45_load_move.md R225, R226). That the destination is addressed and not read is decision D5, which R128 marks as
the spec's own reading (log 10). -/
def Obligations.MoveOperand : Prop :=
  (∀ (gs gd : GenAddr) (s s1 s2 : State) (sl dl : Loc) (src : Word),
    operandWord .src gs s = .ok ((sl, src), s1) → operandAddress .dst .word gd s1 = .ok (dl, s2) →
    StoresWord (.mov gs gd) s s2 dl src (zeroFields src)) ∧
  ∀ (gs gd : GenAddr) (s s1 s2 : State) (sl dl : Loc) (src : Byte),
    operandByte .src gs s = .ok ((sl, src), s1) → operandAddress .dst .byte gd s1 = .ok (dl, s2) →
    StoresByte (.movb gs gd) s s2 dl src (zeroFields src ++ [parityField src])

/-- C and CI (43_compare.md R190, R192): the register is CI's first operand. -/
def Obligations.CompareWords : Prop :=
  (∀ (gs gd : GenAddr) (s s1 s2 : State) (sl dl : Loc) (src dst : Word),
    operandWord .src gs s = .ok ((sl, src), s1) → operandWord .dst gd s1 = .ok ((dl, dst), s2) →
    WritesStatus (.c gs gd) s s2
      [(.lgt, decide (dst.toNat < src.toNat)), (.agt, decide (dst.toInt < src.toInt)), (.eq, decide (src = dst))]) ∧
  ∀ (w : Reg) (s s1 s2 : State) (iop a : Word), fetch s = .ok (iop, s1) → readReg w s1 = .ok (a, s2) →
    WritesStatus (.ci w) s s2
      [(.lgt, decide (iop.toNat < a.toNat)), (.agt, decide (iop.toInt < a.toInt)), (.eq, decide (a = iop))]

/-- CB (43_compare.md R191); whose parity OP is, is decision D26 (log 28). -/
def Obligations.CompareBytes : Prop :=
  ∀ (gs gd : GenAddr) (s s1 s2 : State) (sl dl : Loc) (src dst : Byte),
    operandByte .src gs s = .ok ((sl, src), s1) → operandByte .dst gd s1 = .ok ((dl, dst), s2) →
    WritesStatus (.cb gs gd) s s2
      [(.lgt, decide (dst.toNat < src.toNat)), (.agt, decide (dst.toInt < src.toInt)), (.eq, decide (src = dst)),
        parityField src]

/-- COC and CZC (43_compare.md R193, R194). -/
def Obligations.CompareBits : Prop :=
  ∀ (g : GenAddr) (d : Reg) (s s1 s2 : State) (sl : Loc) (src x : Word),
    operandWord .src g s = .ok ((sl, src), s1) → readReg d s1 = .ok (x, s2) →
    WritesStatus (.coc g d) s s2
      [(.eq, decide (∀ i : Fin 16, src.getLsbD i.val = true → x.getLsbD i.val = true))] ∧
    WritesStatus (.czc g d) s s2
      [(.eq, decide (∀ i : Fin 16, src.getLsbD i.val = true → x.getLsbD i.val = false))]

/-- AI (41_arithmetic.md R142). -/
def Obligations.AddImmediate : Prop :=
  ∀ (w : Reg) (s s1 s2 : State) (iop a : Word), fetch s = .ok (iop, s1) → readReg w s1 = .ok (a, s2) →
    StoresWord (.ai w) s s2 ⟨currentMap s2, s2.wp + 2 * w.setWidth 16⟩ (a + iop) (zeroFields (a + iop) ++
      [(.c, decide (2 ^ 16 ≤ a.toNat + iop.toNat)), overflowField 16 (a.toInt + iop.toInt)])

/-- ANDI, ORI and LI (46_logical.md R240, R241, 45_load_move.md R220). -/
def Obligations.LogicalAndLoadImmediate : Prop :=
  (∀ (w : Reg) (s s1 s2 : State) (iop a : Word), fetch s = .ok (iop, s1) → readReg w s1 = .ok (a, s2) →
    StoresWord (.andi w) s s2 ⟨currentMap s2, s2.wp + 2 * w.setWidth 16⟩ (a &&& iop) (zeroFields (a &&& iop)) ∧
    StoresWord (.ori w) s s2 ⟨currentMap s2, s2.wp + 2 * w.setWidth 16⟩ (a ||| iop) (zeroFields (a ||| iop))) ∧
  ∀ (w : Reg) (s s1 : State) (iop : Word), fetch s = .ok (iop, s1) →
    StoresWord (.li w) s s1 ⟨currentMap s1, s1.wp + 2 * w.setWidth 16⟩ iop (zeroFields iop)

/-- XOR (46_logical.md R242). -/
def Obligations.ExclusiveOr : Prop :=
  ∀ (g : GenAddr) (d : Reg) (s s1 s2 : State) (sl : Loc) (src x : Word),
    operandWord .src g s = .ok ((sl, src), s1) → readReg d s1 = .ok (x, s2) →
    StoresWord (.xor g d) s s2 ⟨currentMap s2, s2.wp + 2 * d.setWidth 16⟩ (src ^^^ x) (zeroFields (src ^^^ x))

/-- MPY (41_arithmetic.md R145). -/
def Obligations.Multiply : Prop :=
  ∀ (g : GenAddr) (d : Reg) (s s1 s2 : State) (sl : Loc) (src x : Word) (k k' : Config.RegionKind) (p p' : Nat),
    operandWord .src g s = .ok ((sl, src), s1) → readReg d s1 = .ok (x, s2) →
    place s2 (currentMap s2) (evenAddress (s2.wp + 2 * d.setWidth 16)) = .ok (k, p) →
    place s2 (currentMap s2) (evenAddress (s2.wp + 2 * d.setWidth 16 + 2)) = .ok (k', p') →
    ∃ hi lo : Word, 65536 * hi.toNat + lo.toNat = src.toNat * x.toNat ∧
      exec (.mpy g d) s = .next ((storedWord k' p' lo (storedWord k p hi s2)).setLd .none) ∧
      ∀ q, q ≠ p → q ≠ p + 1 → q ≠ p' → q ≠ p' + 1 → s2.Quiet q →
        ((storedWord k' p' lo (storedWord k p hi s2)).setLd .none).mem.byte q = s2.mem.byte q

/-- DIV (41_arithmetic.md R146); what an overflow leaves is decision D8 (log 13). -/
def Obligations.Divide : Prop :=
  ∀ (g : GenAddr) (d : Reg) (s s1 s2 : State) (sl : Loc) (dv hi : Word),
    operandWord .src g s = .ok ((sl, dv), s1) → readReg d s1 = .ok (hi, s2) →
    (dv.toNat ≤ hi.toNat → WritesStatus (.div g d) s s2 [(.ov, true)]) ∧
    ∀ (s3 : State) (lo : Word) (k k' : Config.RegionKind) (p p' : Nat), hi.toNat < dv.toNat →
      load (s2.wp + 2 * d.setWidth 16 + 2) s2 = .ok (lo, s3) →
      place s3 (currentMap s3) (evenAddress (s3.wp + 2 * d.setWidth 16)) = .ok (k, p) →
      place s3 (currentMap s3) (evenAddress (s3.wp + 2 * d.setWidth 16 + 2)) = .ok (k', p') →
      ∃ (t : State) (quotient remainder : Word),
        65536 * hi.toNat + lo.toNat = quotient.toNat * dv.toNat + remainder.toNat ∧ remainder.toNat < dv.toNat ∧
        exec (.div g d) s = .next t ∧
        t = ((storedWord k' p' remainder (storedWord k p quotient s3)).setSt t.st).setLd .none ∧
        StatusWritten s3.st t.st [(.ov, false)] ∧
        ∀ q, q ≠ p → q ≠ p + 1 → q ≠ p' → q ≠ p' + 1 → s3.Quiet q → t.mem.byte q = s3.mem.byte q

/-- INC and INCT (41_arithmetic.md R147, R148). -/
def Obligations.Increment : Prop :=
  ∀ (g : GenAddr) (s s1 : State) (l : Loc) (a : Word), operandWord .src g s = .ok ((l, a), s1) →
    StoresWord (.inc g) s s1 l (a + 1) (zeroFields (a + 1) ++
      [(.c, decide (2 ^ 16 ≤ a.toNat + 1)), overflowField 16 (a.toInt + 1)]) ∧
    StoresWord (.inct g) s s1 l (a + 2) (zeroFields (a + 2) ++
      [(.c, decide (2 ^ 16 ≤ a.toNat + 2)), overflowField 16 (a.toInt + 2)])

/-- DEC and DECT (41_arithmetic.md R149, R150; log 12). -/
def Obligations.Decrement : Prop :=
  ∀ (g : GenAddr) (s s1 : State) (l : Loc) (a : Word), operandWord .src g s = .ok ((l, a), s1) →
    StoresWord (.dec g) s s1 l (a - 1) (zeroFields (a - 1) ++
      [(.c, decide (1 ≤ a.toNat)), overflowField 16 (a.toInt - 1)]) ∧
    StoresWord (.dect g) s s1 l (a - 2) (zeroFields (a - 2) ++
      [(.c, decide (2 ≤ a.toNat)), overflowField 16 (a.toInt - 2)])

/-- NEG and ABS (41_arithmetic.md R151, R152); ABS's carry is free (log 8). -/
def Obligations.NegateAndAbsolute : Prop :=
  ∀ (g : GenAddr) (s s1 : State) (l : Loc) (a : Word), operandWord .src g s = .ok ((l, a), s1) →
    StoresWord (.neg g) s s1 l (-a) (zeroFields (-a) ++ [overflowField 16 (-a.toInt)]) ∧
    StoresWord (.abs g) s s1 l (if a.toInt < 0 then -a else a) (zeroFields a ++
      [overflowField 16 |a.toInt|, (.c, Config.absCarry a)])

/-- INV and SWPB (46_logical.md R243, 45_load_move.md R227). -/
def Obligations.InvertAndSwap : Prop :=
  ∀ (g : GenAddr) (s s1 : State) (l : Loc) (a : Word), operandWord .src g s = .ok ((l, a), s1) →
    StoresWord (.inv g) s s1 l (~~~a) (zeroFields (~~~a)) ∧
    StoresWord (.swpb g) s s1 l (a.extractLsb' 0 8 ++ a.extractLsb' 8 8) []

/-- CLR and SETO (46_logical.md R244, R245). -/
def Obligations.ClearAndSet : Prop :=
  ∀ (g : GenAddr) (s s1 : State) (l : Loc), operandAddress .src .word g s = .ok (l, s1) →
    StoresWord (.clr g) s s1 l 0x0000 [] ∧ StoresWord (.seto g) s s1 l 0xFFFF []

/-- B and BL (42_branch.md R160, R161). -/
def Obligations.BranchAndLink : Prop :=
  ∀ (g : GenAddr) (s s1 : State) (l : Loc), operandAddress .src .word g s = .ok (l, s1) →
    exec (.b g) s = .next ((s1.setPc (evenAddress l.addr)).setLd .none) ∧
    ∀ (k : Config.RegionKind) (p : Nat), place s1 (currentMap s1) (evenAddress (s1.wp + 22)) = .ok (k, p) →
      exec (.bl g) s = .next (((storedWord k p s1.pc s1).setPc (evenAddress l.addr)).setLd .none) ∧
      WordStored k p s1.pc s1.turn (((storedWord k p s1.pc s1).setPc (evenAddress l.addr)).setLd .none)

/-- BLWP (42_branch.md R162). -/
def Obligations.BranchAndLoadWorkspace : Prop :=
  ∀ (g : GenAddr) (s s1 s2 s3 : State) (l : Loc) (newWp newPc : Word) (x : SavePlaces s3 (currentMap s1) newWp),
    operandAddress .src .word g s = .ok (l, s1) → readWord (currentMap s1) l.addr s1 = .ok (newWp, s2) →
    readWord (currentMap s1) (l.addr + 2) s2 = .ok (newPc, s3) →
    exec (.blwp g) s =
      .next ((((x.saved s1.wp s1.pc s1.st s3).setWp newWp).setPc (evenAddress newPc)).setLd .none) ∧
    ∀ q, x.Outside q → s1.Quiet q → (x.saved s1.wp s1.pc s1.st s3).mem.byte q = s1.mem.byte q

/-- RTWP (42_branch.md R164). -/
def Obligations.ReturnWithWorkspace : Prop :=
  ∀ (s s1 s2 s3 : State) (w13 w14 w15 : Word), readReg 13 s = .ok (w13, s1) → readReg 14 s1 = .ok (w14, s2) →
    readReg 15 s2 = .ok (w15, s3) →
    ∃ t, exec .rtwp s = .next t ∧ t = (((s3.setSt t.st).setWp w13).setPc (evenAddress w14)).setLd .none ∧
      (unprivileged s = false → t.st = w15 &&& s.plat.stMask) ∧
      (unprivileged s = true → ∀ i, i < 16 → t.st.getLsbD i = if 9 ≤ i then w15.getLsbD i else s3.st.getLsbD i)

/-- The jumps on the comparison bits (42_branch.md R165 to R174). -/
def Obligations.JumpsAfterCompare : Prop :=
  ∀ d : BitVec 8,
    JumpsWhen (.jmp d) d (fun _ => True) ∧
    JumpsWhen (.jh d) d (fun s => flag .lgt s.st = true ∧ flag .eq s.st = false) ∧
    JumpsWhen (.jl d) d (fun s => flag .lgt s.st = false ∧ flag .eq s.st = false) ∧
    JumpsWhen (.jhe d) d (fun s => flag .lgt s.st = true ∨ flag .eq s.st = true) ∧
    JumpsWhen (.jle d) d (fun s => flag .lgt s.st = false ∨ flag .eq s.st = true) ∧
    JumpsWhen (.jgt d) d (fun s => flag .agt s.st = true) ∧
    JumpsWhen (.jlt d) d (fun s => flag .agt s.st = false ∧ flag .eq s.st = false) ∧
    JumpsWhen (.jeq d) d (fun s => flag .eq s.st = true) ∧
    JumpsWhen (.jne d) d (fun s => flag .eq s.st = false)

/-- The jumps on carry, overflow and parity (42_branch.md R165, R175 to R178). -/
def Obligations.JumpsOnBits : Prop :=
  ∀ d : BitVec 8,
    JumpsWhen (.joc d) d (fun s => flag .c s.st = true) ∧
    JumpsWhen (.jnc d) d (fun s => flag .c s.st = false) ∧
    JumpsWhen (.jno d) d (fun s => flag .ov s.st = false) ∧
    JumpsWhen (.jop d) d (fun s => flag .op s.st = true)

/-- X (42_branch.md R183); where the extension words of a substituted instruction come from is decision D17. -/
def Obligations.ExecuteInstruction : Prop :=
  ∀ (g : GenAddr) (s s1 : State) (l : Loc) (ir : Word) (i : Instr), operandWord .src g s = .ok ((l, ir), s1) →
    decodeWord ir = .ok i → (∀ g', i ≠ .x g') →
    exec (.x g) s = exec i (s1.setLd .none) ∧
    (∀ d, i = .jmp d → ∃ t, exec (.x g) s = .next t ∧ t = (s1.setPc t.pc).setLd .none) ∧
    ∀ (r : Reg) (s2 : State) (l2 : Loc) (a : Word) (k : Config.RegionKind) (p : Nat), i = .inc (.reg r) →
      operandWord .src (.reg r) (s1.setLd .none) = .ok ((l2, a), s2) →
      place s2 l2.file (evenAddress l2.addr) = .ok (k, p) →
      ∃ t, exec (.x g) s = .next t ∧ WordStored k p (a + 1) s2.turn t ∧ SameContext s2.turn t ∧ t.pc = s2.pc

/-- 44_control_cru.md R200 to R203, R205; signals are events (decision D20, log 24). -/
def Obligations.ControlInstructions : Prop :=
  (∀ s : State, s.plat.isTms = false → unprivileged s = false →
    exec .rset s = .next (((((s.setSt (setMask 0 s.st)).setClken false).setErr false).emit (.signal .rset)).setLd .none) ∧
    exec .ckof s = .next ((s.setClken false).setLd .none) ∧ exec .ckon s = .next ((s.setClken true).setLd .none) ∧
    exec .idle s = .next ((s.setIdle true).setLd .none)) ∧
  ∀ s : State, s.plat.isTms = true →
    exec .rset s = .next ((s.emit (.signal .rset)).setLd .none) ∧
    exec .ckof s = .next ((s.emit (.signal .ckof)).setLd .none) ∧
    exec .ckon s = .next ((s.emit (.signal .ckon)).setLd .none) ∧
    exec .lrex s = .next ((s.emit (.signal .lrex)).setLd .none) ∧
    exec .idle s = .next (((s.emit (.signal .idle)).setIdle true).setLd .none)

/-- LREX (44_control_cru.md R204). -/
def Obligations.LoadOrRestart : Prop :=
  ∀ (s s1 s2 : State) (newWp newPc : Word) (x : SavePlaces s2 .zero newWp), s.plat.isTms = false → unprivileged s = false →
    readWord .zero 0xFFFC s = .ok (newWp, s1) → readWord .zero 0xFFFE s1 = .ok (newPc, s2) →
    ∃ t, exec .lrex s = .next t ∧
      t = ((((x.saved s.wp s.pc s.st s2).setSt t.st).setWp newWp).setPc (evenAddress newPc)).setLd .none ∧
      StatusAndMask s.st t.st (if s.plat.hasMap then [(.mf, false)] else []) 0 ∧
      ∀ q, x.Outside q → s.Quiet q → t.mem.byte q = s.mem.byte q

/-- The error interrupt (60_exceptions.md R315, R316); its mechanics are decision D11 (log 16). LMF, LDS and LDD need the map option. -/
def Obligations.PrivilegedInstructionsTrap : Prop :=
  ∀ (s : State) (m : BitVec 1) (w : Reg) (g : GenAddr), unprivileged s = true →
    Traps .rset s s 0 ∧ Traps .idle s s 0 ∧ Traps .ckof s s 0 ∧ Traps .ckon s s 0 ∧ Traps .lrex s s 0 ∧ Traps .limi s s 1 ∧
    (s.plat.hasMap = true → Traps (.lmf m w) s s 0 ∧ Traps (.lds g) s s g.extWords ∧ Traps (.ldd g) s s g.extWords)

/-- 60_exceptions.md R316; for LDCR and STCR only the first line is tested. -/
def Obligations.PrivilegedCruTraps : Prop :=
  ∀ (s s1 : State) (r12 : Word), unprivileged s = true → readReg 12 s = .ok (r12, s1) →
    (∀ d : BitVec 8, 0xE00 ≤ ((r12.toNat / 2 : Nat) + d.toInt) % 4096 →
      Traps (.sbo d) s s1 0 ∧ Traps (.sbz d) s s1 0 ∧ Traps (.tb d) s s1 0) ∧
    ∀ (g : GenAddr) (c : BitVec 4), 0xE00 ≤ r12.toNat / 2 % 4096 →
      Traps (.ldcr g c) s s1 g.extWords ∧ Traps (.stcr g c) s s1 g.extWords

/-- 44_control_cru.md R206 to R208; the input bit is free (log 6). -/
def Obligations.CruBits : Prop :=
  ∀ (s s1 : State) (r12 : Word) (d : BitVec 8) (line : BitVec 12), readReg 12 s = .ok (r12, s1) →
    (line.toNat : Int) = ((r12.toNat / 2 : Nat) + d.toInt) % 4096 → (unprivileged s = true → line.toNat < 0xE00) →
    exec (.sbo d) s = .next ((s1.emit (.cruOut line true)).setLd .none) ∧
    exec (.sbz d) s = .next ((s1.emit (.cruOut line false)).setLd .none) ∧
    ∃ t, exec (.tb d) s = .next t ∧
      t = ((((s1.setDraws (s1.draws + 1)).emit (.cruIn line (Config.cruInput s1.draws line))).setSt t.st).setLd .none) ∧
      StatusWritten s1.st t.st [(.eq, Config.cruInput s1.draws line)]

/-- LDCR (44_control_cru.md R209). -/
def Obligations.LoadCru : Prop :=
  ∀ (g : GenAddr) (c : BitVec 4) (n : Nat) (s s1 s2 : State) (r12 : Word) (l : Loc),
    (if c = 0 then 16 else c.toNat) = n → readReg 12 s = .ok (r12, s1) →
    (unprivileged s = true → r12.toNat / 2 % 4096 < 0xE00) →
    (∀ v : Byte, n ≤ 8 → operandByte .src g s1 = .ok ((l, v), s2) →
      ∃ t, exec (.ldcr g c) s = .next t ∧
        t = ((s2.setEvents (linesDriven (r12.toNat / 2) n (v.setWidth 16) ++ s2.events)).setSt t.st).setLd .none ∧
        StatusWritten s2.st t.st (zeroFields v ++ [parityField v])) ∧
    ∀ v : Word, 8 < n → operandWord .src g s1 = .ok ((l, v), s2) →
      ∃ t, exec (.ldcr g c) s = .next t ∧
        t = ((s2.setEvents (linesDriven (r12.toNat / 2) n v ++ s2.events)).setSt t.st).setLd .none ∧
        StatusWritten s2.st t.st (zeroFields v)

/-- STCR (44_control_cru.md R210); the input bits are free (log 6). -/
def Obligations.StoreCru : Prop :=
  ∀ (g : GenAddr) (c : BitVec 4) (n : Nat) (s s1 s2 : State) (r12 : Word) (l : Loc) (k : Config.RegionKind) (p : Nat),
    (if c = 0 then 16 else c.toNat) = n → readReg 12 s = .ok (r12, s1) →
    (unprivileged s = true → r12.toNat / 2 % 4096 < 0xE00) →
    (n ≤ 8 → operandAddress .src .byte g s1 = .ok (l, s2) → place s2 l.file l.addr = .ok (k, p) →
      ∃ (t : State) (v : Byte), exec (.stcr g c) s = .next t ∧
        (∀ i, i < 8 → v.getLsbD i =
          (decide (i < n) && Config.cruInput (s2.draws + i) (BitVec.ofNat 12 (r12.toNat / 2 + i)))) ∧
        t = ((storedByte k p v ((s2.setDraws (s2.draws + n)).setEvents (linesRead (r12.toNat / 2) n s2.draws ++ s2.events))).setSt t.st).setLd .none ∧
        StatusWritten s2.st t.st (zeroFields v ++ [parityField v]) ∧ ∀ q, q ≠ p → t.mem.byte q = s2.turn.mem.byte q) ∧
    (8 < n → operandAddress .src .word g s1 = .ok (l, s2) → place s2 l.file (evenAddress l.addr) = .ok (k, p) →
      ∃ (t : State) (v : Word), exec (.stcr g c) s = .next t ∧
        (∀ i, i < 16 → v.getLsbD i =
          (decide (i < n) && Config.cruInput (s2.draws + i) (BitVec.ofNat 12 (r12.toNat / 2 + i)))) ∧
        t = ((storedWord k p v ((s2.setDraws (s2.draws + n)).setEvents (linesRead (r12.toNat / 2) n s2.draws ++ s2.events))).setSt t.st).setLd .none ∧
        StatusWritten s2.st t.st (zeroFields v) ∧ ∀ q, q ≠ p → q ≠ p + 1 → t.mem.byte q = s2.turn.mem.byte q)

/-- LIMI (45_load_move.md R222); the mechanics of the error interrupt are decision D11. -/
def Obligations.LoadInterruptMask : Prop :=
  (∀ (s s1 : State) (iop : Word), unprivileged s = false → fetch s = .ok (iop, s1) →
    ∃ t, exec .limi s = .next t ∧ t = (s1.setSt t.st).setLd .none ∧ (maskOf t.st).toNat = iop.toNat % 16 ∧
      ∀ i, 4 ≤ i → i < 16 → t.st.getLsbD i = s1.st.getLsbD i) ∧
  ∀ s : State, unprivileged s = true → Traps .limi s s 1

/-- LWPI, STST and STWP (45_load_move.md R223, R228, R229). -/
def Obligations.ProcessorRegisterMoves : Prop :=
  (∀ (s s1 : State) (iop : Word), fetch s = .ok (iop, s1) → exec .lwpi s = .next ((s1.setWp iop).setLd .none)) ∧
  ∀ (s : State) (w : Reg),
    StoresWord (.stst w) s s ⟨currentMap s, s.wp + 2 * w.setWidth 16⟩ s.st [] ∧
    StoresWord (.stwp w) s s ⟨currentMap s, s.wp + 2 * w.setWidth 16⟩ s.wp []

/-- The right shifts (47_shift.md R261, R263, R264), with the count of R260. -/
def Obligations.ShiftsRight : Prop :=
  ∀ (w : Reg) (c : BitVec 4) (n : Nat) (s s1 s2 : State) (a : Word), CountOf c s s1 n → readReg w s1 = .ok (a, s2) →
    StoresWord (.sra w c) s s2 ⟨currentMap s2, s2.wp + 2 * w.setWidth 16⟩ (BitVec.ofInt 16 (a.toInt / 2 ^ n))
      (zeroFields (BitVec.ofInt 16 (a.toInt / 2 ^ n)) ++ [(.c, a.getLsbD (n - 1))]) ∧
    StoresWord (.srl w c) s s2 ⟨currentMap s2, s2.wp + 2 * w.setWidth 16⟩ (BitVec.ofNat 16 (a.toNat / 2 ^ n))
      (zeroFields (BitVec.ofNat 16 (a.toNat / 2 ^ n)) ++ [(.c, a.getLsbD (n - 1))]) ∧
    ∃ r : Word, (∀ i, i < 16 → r.getLsbD i = a.getLsbD ((i + n) % 16)) ∧
      StoresWord (.src w c) s s2 ⟨currentMap s2, s2.wp + 2 * w.setWidth 16⟩ r
        (zeroFields r ++ [(.c, a.getLsbD (n - 1))])

/-- SLA (47_shift.md R262): the spec's test on the sign bits is the product's overflow. -/
def Obligations.ShiftLeft : Prop :=
  ∀ (w : Reg) (c : BitVec 4) (n : Nat) (s s1 s2 : State) (a : Word), CountOf c s s1 n → readReg w s1 = .ok (a, s2) →
    StoresWord (.sla w c) s s2 ⟨currentMap s2, s2.wp + 2 * w.setWidth 16⟩ (BitVec.ofInt 16 (a.toInt * 2 ^ n))
      (zeroFields (BitVec.ofInt 16 (a.toInt * 2 ^ n)) ++
        [(.c, a.getLsbD (16 - n)), overflowField 16 (a.toInt * 2 ^ n)])

/-- XOP (48_xop_longdistance.md R270, R271). A module's function is the open constant `xopModule`; what it can change is log 27. -/
def Obligations.ExtendedOperation : Prop :=
  (∀ (g : GenAddr) (n : BitVec 4) (s s1 s2 s3 : State) (l : Loc) (newWp newPc : Word) (x : SavePlaces s3 .zero newWp)
    (k : Config.RegionKind) (p : Nat),
    operandAddress .src .word g s = .ok (l, s1) → s.plat.xopHardware n = false →
    readWord .zero (BitVec.ofNat 16 (0x40 + 4 * n.toNat)) s1 = .ok (newWp, s2) →
    readWord .zero (BitVec.ofNat 16 (0x42 + 4 * n.toNat)) s2 = .ok (newPc, s3) →
    place s3 .zero (evenAddress (newWp + 22)) = .ok (k, p) →
    ∃ t, exec (.xop g n) s = .next t ∧
      t = ((((x.saved s1.wp s1.pc s1.st (storedWord k p l.addr s3)).setSt t.st).setWp newWp).setPc
        (evenAddress newPc)).setLd .none ∧
      StatusWritten s1.st t.st ((.x, true) :: supervisorFields s) ∧
      ∀ q, x.Outside q → q ≠ p → q ≠ p + 1 → s1.Quiet q → t.mem.byte q = s1.mem.byte q) ∧
  ∀ (g : GenAddr) (n : BitVec 4) (s s1 : State) (l : Loc) (r : ModuleResult), operandAddress .src .word g s = .ok (l, s1) →
    s.plat.xopHardware n = true → s.plat.xopSupplied n = true → Config.xopModule n l.addr s1 = r →
    ∃ t, exec (.xop g n) s = .next t ∧
      t = ((((((((((s1.setMem t.mem).setWp r.wp).setPc (evenAddress r.pc)).setSt (r.st &&& s.plat.stMask)).setMap0 r.map0).setMap1
        r.map1).setMap2 r.map2).setErr r.err).setIdle r.idle).setClken r.clken).setLd .none ∧
      BytesWritten s.plat r.writes s1.mem t.mem

/-- LMF, LDS and LDD (45_load_move.md R224, 48_xop_longdistance.md R275, R276). The word order L1, B1, L2, B2, L3, B3 of the third
clause is no reading of the source: R224 takes it from general knowledge (G6), log 32, PRESUMED. One turn of the environment
before each word (20_memory.md R74; log 25). -/
def Obligations.MapFileLoads : Prop :=
  (∀ (s s1 s2 : State) (w : Reg) (a : Word) (m : MapFile), s.plat.hasMap = true → unprivileged s = false →
    readReg w s = .ok (a, s1) → loadMapFile ⟨currentMap s1, a⟩ s1 = .ok (m, s2) →
    exec (.lmf 0 w) s = .next ((s2.setMap0 m).setLd .none) ∧ exec (.lmf 1 w) s = .next ((s2.setMap1 m).setLd .none)) ∧
  (∀ (s s1 s2 : State) (g : GenAddr) (l : Loc) (m : MapFile), s.plat.hasMap = true → unprivileged s = false →
    operandAddress .src .word g s = .ok (l, s1) → loadMapFile l s1 = .ok (m, s2) →
    exec (.lds g) s = .next ((s2.setMap2 m).setLd .src) ∧ exec (.ldd g) s = .next ((s2.setMap2 m).setLd .dst)) ∧
  ∀ (s : State) (f : MapNo) (a : Word) (m : MapFile), HoldsWord s.turn f a m.l1 → HoldsWord s.turn.turn f (a + 2) m.b1 →
    HoldsWord s.turn.turn.turn f (a + 4) m.l2 → HoldsWord s.turn.turn.turn.turn f (a + 6) m.b2 →
    HoldsWord s.turn.turn.turn.turn.turn f (a + 8) m.l3 → HoldsWord s.turn.turn.turn.turn.turn.turn f (a + 10) m.b3 →
    loadMapFile ⟨f, a⟩ s = .ok (m, s.turn.turn.turn.turn.turn.turn)

/-- 48_xop_longdistance.md R277. -/
def Obligations.LatchLastsOneInstruction : Prop :=
  (∀ (i : Instr) (s t : State), (∀ g, i ≠ .lds g) → (∀ g, i ≠ .ldd g) → (∀ g, i ≠ .x g) → exec i s = .next t →
    t.ld = .none) ∧
  (∀ (g : GenAddr) (s s1 t : State) (l : Loc) (ir : Word), operandWord .src g s = .ok ((l, ir), s1) →
    (∀ g', decodeWord ir ≠ .ok (.lds g')) → (∀ g', decodeWord ir ≠ .ok (.ldd g')) → exec (.x g) s = .next t →
    t.ld = .none) ∧
  ∀ (level : Nat) (s t : State), takeInterrupt level s = .next t → t.ld = .none

/-- 60_exceptions.md R320, over all 72 instructions and what X executes; `Runs` names the instruction. What a hardware module may
change is open (48_xop_longdistance.md R271; log 27). -/
def Obligations.NonPrivilegedKeeps : Prop :=
  ∀ s t : State, unprivileged s = true → pendingLevel (sampleInputs s) = none → step s = .next t →
    t.plat = s.plat ∧
    ((t.map0 = s.map0 ∧ t.map1 = s.map1 ∧ t.map2 = s.map2 ∧ t.clken = s.clken ∧ t.idle = s.idle ∧
        maskOf t.st = maskOf s.st ∧ (s.err = true → t.err = true) ∧
        ((flag .pm t.st = true ∧ flag .mf t.st = flag .mf s.st) ∨
          (∃ g n u, Runs s (.xop g n) u ∧ s.plat.xopHardware n = false) ∧
            flag .pm t.st = false ∧ flag .x t.st = true ∧ (s.plat.hasMap = true → flag .mf t.st = false))) ∨
      ∃ g n u l v, Runs s (.xop g n) u ∧ s.plat.xopHardware n = true ∧ operandAddress .src .word g u = .ok (l, v) ∧
        t = (v.afterModule (Config.xopModule n l.addr v)).setLd .none)

/-- Protection by the map (20_memory.md R68): the map gives a program a window and nothing else. A step that ends with PM = 0 is a
software XOP's entry, whose saves go through map file 0; a hardware module (48_xop_longdistance.md R271; log 27) and the environment
(20_memory.md R74; log 25) write where they choose. -/
def Obligations.MemoryWindow : Prop :=
  ∀ s t : State, unprivileged s = true → s.ld = .none → pendingLevel (sampleInputs s) = none → step s = .next t →
    flag .pm t.st = true → (∀ g n u, Runs s (.xop g n) u → s.plat.xopHardware n = false) →
    ∀ q, ¬ Reaches s (currentMap s) q → s.Quiet q → t.mem.byte q = s.mem.byte q
end

