-- ==== Sys2Proof/Laws/Coding.lean ====
section
/-! SUPPORT. The fields of an encoded word, format by format: what a slice of it is, and what is left of it under the op code
map's mask. -/

namespace Sys2Proof

/-! ## Under the mask of the op code map (30_encoding.md R99) -/

/-- Format I: the mask keeps the op code. -/
theorem maskedTwoAddress (op : BitVec 4) (gs gd : GenAddr) :
    encodeTwoAddress op gs gd &&& 0xF000 = op ++ (0 : BitVec 12) := by
  unfold encodeTwoAddress
  generalize gd.mode = a
  generalize gd.field = b
  generalize gs.mode = c
  generalize gs.field = d
  apply BitVec.eq_of_getLsbD_eq
  intro i hi
  simp only [BitVec.getLsbD_and, BitVec.getLsbD_append]
  interval_cases i <;> simp

/-- Formats III, IV and IX: the mask keeps the op code. -/
theorem maskedAddressAndField (op : BitVec 6) (g : GenAddr) (d : BitVec 4) :
    encodeAddressAndField op g d &&& 0xFC00 = op ++ (0 : BitVec 10) := by
  unfold encodeAddressAndField
  generalize g.mode = a
  generalize g.field = b
  apply BitVec.eq_of_getLsbD_eq
  intro i hi
  simp only [BitVec.getLsbD_and, BitVec.getLsbD_append]
  interval_cases i <;> simp

/-- Format II: the mask keeps the op code. -/
theorem maskedDisplacement (op disp : BitVec 8) : encodeDisplacement op disp &&& 0xFF00 = op ++ (0 : BitVec 8) := by
  unfold encodeDisplacement
  apply BitVec.eq_of_getLsbD_eq
  intro i hi
  simp only [BitVec.getLsbD_and, BitVec.getLsbD_append]
  interval_cases i <;> simp

/-- Format V: the mask keeps the op code. -/
theorem maskedShift (op : BitVec 8) (w c : BitVec 4) : encodeShift op w c &&& 0xFF00 = op ++ (0 : BitVec 8) := by
  unfold encodeShift
  apply BitVec.eq_of_getLsbD_eq
  intro i hi
  simp only [BitVec.getLsbD_and, BitVec.getLsbD_append]
  interval_cases i <;> simp

/-- Format VI: the mask keeps the op code. -/
theorem maskedOneAddress (op : BitVec 10) (g : GenAddr) : encodeOneAddress op g &&& 0xFFC0 = op ++ (0 : BitVec 6) := by
  unfold encodeOneAddress
  generalize g.mode = a
  generalize g.field = b
  apply BitVec.eq_of_getLsbD_eq
  intro i hi
  simp only [BitVec.getLsbD_and, BitVec.getLsbD_append]
  interval_cases i <;> simp

/-- Format X: the mask keeps the op code. -/
theorem maskedControl (op : BitVec 11) (m : BitVec 1) (w : Reg) :
    encodeImmediateAndControl op m w &&& 0xFFE0 = op ++ (0 : BitVec 5) := by
  unfold encodeImmediateAndControl
  apply BitVec.eq_of_getLsbD_eq
  intro i hi
  simp only [BitVec.getLsbD_and, BitVec.getLsbD_append]
  interval_cases i <;> simp

/-- Format VIII: the mask keeps the op code and the zero above the register. -/
theorem maskedImmediate (op : BitVec 11) (w : Reg) :
    encodeImmediateAndControl op 0 w &&& 0xFFF0 = op ++ (0 : BitVec 5) := by
  unfold encodeImmediateAndControl
  apply BitVec.eq_of_getLsbD_eq
  intro i hi
  simp only [BitVec.getLsbD_and, BitVec.getLsbD_append]
  interval_cases i <;> simp

/-! ## General addresses (30_encoding.md R92) -/

/-- A well-formed general address is read back from its mode and its register field. -/
theorem genAddr_mode_field {g : GenAddr} (h : g.wf = true) : genAddr g.mode g.field = g := by
  cases g with
  | idx r => revert r; decide
  | _ => rfl

/-- A general address read from fields is well formed, and its fields are those. -/
theorem genAddr_wf (t : BitVec 2) (r : Reg) :
    (genAddr t r).wf = true ∧ (genAddr t r).mode = t ∧ (genAddr t r).field = r := by
  revert t r; decide

end Sys2Proof
end

