-- ==== Sys2Proof/Laws/Flags.lean ====
section
/-! SUPPORT. What the status-bit functions and the sums say, as facts about numbers. -/

namespace Sys2Proof.Machine

/-! ## One field -/

theorem Flag.bit_lt (f : Flag) : f.bit < 16 := by cases f <;> decide

theorem Flag.bit_injective {f g : Flag} (h : f.bit = g.bit) : f = g := by
  cases f <;> cases g <;> first | rfl | (revert h; decide)

/-- Writing a field leaves every other bit. -/
theorem getLsbD_setFlag_ne (f : Flag) (b : Bool) (st : Word) {i : Nat} (h : f.bit ≠ i) :
    (setFlag f b st).getLsbD i = st.getLsbD i := by
  have ht : (BitVec.twoPow 16 f.bit).getLsbD i = false := by simp [BitVec.getLsbD_twoPow, h]
  unfold setFlag
  split
  · rw [BitVec.getLsbD_or, ht, Bool.or_false]
  · by_cases hi : i < 16
    · rw [BitVec.getLsbD_and, BitVec.getLsbD_not, ht]
      simp only [hi, decide_true, Bool.not_false, Bool.and_true]
    · rw [BitVec.getLsbD_of_ge _ i (by omega), BitVec.getLsbD_of_ge st i (by omega)]

/-- A field written is the field read. -/
@[simp] theorem flag_setFlag_same (f : Flag) (b : Bool) (st : Word) : flag f (setFlag f b st) = b := by
  have := f.bit_lt
  cases b <;> simp [flag, setFlag, this]

/-- Writing a field leaves every other field. -/
theorem flag_setFlag_ne {f g : Flag} (h : f ≠ g) (b : Bool) (st : Word) : flag g (setFlag f b st) = flag g st :=
  getLsbD_setFlag_ne f b st fun e => h (Flag.bit_injective e)

/-- The mask is no field of a flag. -/
theorem getLsbD_setMask (m : BitVec 4) (st : Word) (i : Nat) :
    (setMask m st).getLsbD i = if i < 4 then m.getLsbD i else st.getLsbD i := by
  unfold setMask
  by_cases h : i < 4
  · have h16 : i < 16 := by omega
    have hc : (0xFFF0 : Word).getLsbD i = false := by
      rcases (by omega : i = 0 ∨ i = 1 ∨ i = 2 ∨ i = 3) with rfl | rfl | rfl | rfl <;> decide
    simp only [BitVec.getLsbD_or, BitVec.getLsbD_and, BitVec.getLsbD_setWidth, hc, h, h16, decide_true, if_true,
      Bool.and_false, Bool.false_or, Bool.true_and]
  · by_cases h16 : i < 16
    · have hc : (0xFFF0 : Word).getLsbD i = true := by
        have : ∀ j : Fin 16, ¬ j.val < 4 → (0xFFF0 : Word).getLsbD j.val = true := by decide
        exact this ⟨i, h16⟩ h
      simp only [BitVec.getLsbD_or, BitVec.getLsbD_and, BitVec.getLsbD_setWidth, hc, h, h16, decide_true, if_false,
        Bool.and_true, Bool.true_and, BitVec.getLsbD_of_ge m i (by omega), Bool.or_false]
    · rw [BitVec.getLsbD_of_ge _ i (by omega), if_neg h, BitVec.getLsbD_of_ge _ i (by omega)]

/-- A mask written is the mask read. -/
@[simp] theorem maskOf_setMask (m : BitVec 4) (st : Word) : maskOf (setMask m st) = m := by
  apply BitVec.eq_of_getLsbD_eq
  intro i hi
  rw [maskOf, BitVec.getLsbD_extractLsb', getLsbD_setMask, Nat.zero_add, if_pos hi]
  simp [hi]

/-- Writing the mask leaves every field. -/
@[simp] theorem flag_setMask (f : Flag) (m : BitVec 4) (st : Word) : flag f (setMask m st) = flag f st := by
  unfold flag
  rw [getLsbD_setMask, if_neg (by cases f <;> decide)]

/-- Writing a field leaves the mask. -/
@[simp] theorem maskOf_setFlag (f : Flag) (b : Bool) (st : Word) : maskOf (setFlag f b st) = maskOf st := by
  apply BitVec.eq_of_getLsbD_eq
  intro i hi
  rw [maskOf, maskOf, BitVec.getLsbD_extractLsb', BitVec.getLsbD_extractLsb', getLsbD_setFlag_ne]
  cases f <;> simp only [Flag.bit] <;> omega

/-! ## Which fields a change writes -/

/-- Nothing written. -/
theorem StatusWritten.none (st : Word) : StatusWritten st st [] := ⟨by simp, fun _ _ _ => rfl⟩

/-- One more field written. -/
theorem StatusWritten.cons {old new : Word} {fields : List (Flag × Bool)} (h : StatusWritten old new fields) (f : Flag)
    (b : Bool) (hf : ∀ x ∈ fields, f ≠ x.1) : StatusWritten old (setFlag f b new) ((f, b) :: fields) := by
  refine ⟨?_, ?_⟩
  · intro x hx
    rcases List.mem_cons.mp hx with rfl | hx
    · exact flag_setFlag_same _ _ _
    · rw [flag_setFlag_ne (hf x hx)]; exact h.1 x hx
  · intro i hi hn
    rw [getLsbD_setFlag_ne _ _ _ (hn (f, b) (by simp))]
    exact h.2 i hi fun x hx => hn x (by simp [hx])

/-- The order in which fields are listed does not matter. -/
theorem StatusWritten.perm {old new : Word} {fs gs : List (Flag × Bool)} (h : StatusWritten old new fs)
    (e : ∀ x, x ∈ fs ↔ x ∈ gs) : StatusWritten old new gs :=
  ⟨fun x hx => h.1 x ((e x).mpr hx), fun i hi hn => h.2 i hi fun x hx => hn x ((e x).mp hx)⟩

/-! ## Comparisons -/

theorem beq_zero_eq {w : Nat} (r : BitVec w) : (r == 0) = decide (r.toNat = 0) := by
  rw [Bool.eq_iff_iff]; simp [← BitVec.toNat_inj]

theorem ne_zero_eq {w : Nat} (r : BitVec w) : (r != 0) = decide (0 < r.toNat) := by
  have : (r != 0) = !(r == 0) := rfl
  rw [this, beq_zero_eq, Bool.eq_iff_iff]; simp [Nat.pos_iff_ne_zero]

theorem decide_pos_toInt {w : Nat} (r : BitVec w) : (!r.msb && r != 0) = decide (0 < r.toInt) := by
  rw [ne_zero_eq, BitVec.msb_eq_toInt, Bool.eq_iff_iff]
  have hc := BitVec.toInt_eq_toNat_cond r
  have hl := r.isLt
  simp only [Bool.and_eq_true, Bool.not_eq_true', decide_eq_false_iff_not, decide_eq_true_eq]
  generalize 2 ^ w = P at *
  split at hc <;> omega

/-- A comparison to zero writes LGT, AGT and EQ (40_addressing.md R131). -/
theorem compareToZero_written {w : Nat} (r : BitVec w) (st : Word) : StatusWritten st (compareToZero r st) (zeroFields r) := by
  unfold compareToZero
  rw [decide_pos_toInt, ne_zero_eq, beq_zero_eq]
  exact ((((StatusWritten.none st).cons .lgt _ (by simp)).cons .agt _ (by simp)).cons .eq _ (by simp)).perm
    fun x => by simp only [zeroFields, List.mem_cons, List.not_mem_nil, or_false]; tauto

/-- A comparison of two operands writes LGT, AGT and EQ (40_addressing.md R132). -/
theorem compareOperands_written {w : Nat} (s d : BitVec w) (st : Word) :
    StatusWritten st (compareOperands s d st)
      [(.lgt, decide (d.toNat < s.toNat)), (.agt, decide (d.toInt < s.toInt)), (.eq, decide (s = d))] := by
  unfold compareOperands
  have he : (s == d) = decide (s = d) := by by_cases h : s = d <;> simp [h]
  rw [he]
  exact ((((StatusWritten.none st).cons .lgt _ (by simp)).cons .agt _ (by simp)).cons .eq _ (by simp)).perm
    fun x => by
      simp only [BitVec.ult, BitVec.slt, List.mem_cons, List.not_mem_nil, or_false]; tauto

/-- The parity function is the parity of the number of one bits (40_addressing.md R135). -/
theorem oddParity_eq (b : Byte) : (Flag.op, oddParity b) = parityField b := by
  revert b; decide +kernel

/-! ## Sums -/

theorem add_value {w : Nat} (a b : BitVec w) : (add a b).value = a + b := by
  apply BitVec.eq_of_toNat_eq
  simp only [add, BitVec.toNat_setWidth, BitVec.toNat_add]
  rw [Nat.mod_eq_of_lt (Nat.lt_of_lt_of_le a.isLt (Nat.pow_le_pow_right (by omega) (by omega))),
    Nat.mod_eq_of_lt (Nat.lt_of_lt_of_le b.isLt (Nat.pow_le_pow_right (by omega) (by omega))), Nat.mod_mod_of_dvd]
  exact Nat.pow_dvd_pow 2 (by omega)

/-- The carry of a sum: the exact sum does not fit (40_addressing.md R133). -/
theorem add_carry {w : Nat} (a b : BitVec w) : (add a b).carry = decide (2 ^ w ≤ a.toNat + b.toNat) := by
  have ha := a.isLt
  have hb := b.isLt
  have hw : 2 ^ (w + 1) = 2 * 2 ^ w := by rw [Nat.pow_succ]; omega
  simp only [add, BitVec.getLsbD, BitVec.toNat_add, BitVec.toNat_setWidth]
  rw [Nat.mod_eq_of_lt (by omega : a.toNat < 2 ^ (w + 1)), Nat.mod_eq_of_lt (by omega : b.toNat < 2 ^ (w + 1)),
    Nat.mod_eq_of_lt (by omega), Nat.testBit_eq_decide_div_mod_eq]
  rw [decide_eq_decide]
  by_cases h : 2 ^ w ≤ a.toNat + b.toNat
  · have : (a.toNat + b.toNat) / 2 ^ w = 1 := by
      rw [Nat.div_eq_iff (by omega)]; omega
    simp [this, h]
  · simp [Nat.div_eq_of_lt (by omega : a.toNat + b.toNat < 2 ^ w), h]

/-- The overflow of a sum: the exact two's complement sum does not fit (40_addressing.md R133). -/
theorem add_overflow {w : Nat} (a b : BitVec (w + 1)) :
    (Flag.ov, (add a b).overflow) = overflowField (w + 1) (a.toInt + b.toInt) := by
  have hv : (add a b).overflow = (a.msb == b.msb && (a + b).msb != a.msb) := by
    rw [← add_value]; rfl
  simp only [overflowField, hv, Nat.add_sub_cancel, Prod.mk.injEq, true_and]
  have hp : (0 : Int) < 2 ^ w := Int.pow_pos (by decide)
  have hs : (2 : Int) ^ (w + 1) = 2 * 2 ^ w := by rw [Int.pow_succ]; omega
  have ha := BitVec.toInt_lt (x := a)
  have ha' := BitVec.le_toInt (x := a)
  have hb := BitVec.toInt_lt (x := b)
  have hb' := BitVec.le_toInt (x := b)
  have hsum := BitVec.toInt_add a b
  have hr := BitVec.toInt_lt (x := a + b)
  have hr' := BitVec.le_toInt (x := a + b)
  simp only [Nat.add_sub_cancel] at ha ha' hb hb' hr hr'
  have hk : (a + b).toInt = a.toInt + b.toInt ∨ (a + b).toInt = a.toInt + b.toInt + 2 ^ (w + 1) ∨
      (a + b).toInt = a.toInt + b.toInt - 2 ^ (w + 1) := by
    rw [hsum, Int.bmod_def]
    have hc : ((2 ^ (w + 1) : Nat) : Int) = 2 ^ (w + 1) := by push_cast; rfl
    rw [hc]
    have e1 := Int.emod_add_mul_ediv (a.toInt + b.toInt) (2 ^ (w + 1))
    have e2 := Int.emod_nonneg (a.toInt + b.toInt) (by omega : (2 : Int) ^ (w + 1) ≠ 0)
    have e3 := Int.emod_lt_of_pos (a.toInt + b.toInt) (by omega : (0 : Int) < 2 ^ (w + 1))
    rw [hs] at e1 e2 e3 ⊢
    generalize (2 : Int) ^ w = P at *
    generalize hq : (a.toInt + b.toInt) / (2 * P) = q at *
    have hqb : q = 0 ∨ q = -1 := by
      have h1 : q < 1 := by
        by_contra hc; have : 1 ≤ q := by omega
        nlinarith
      have h2 : -2 < q := by
        by_contra hc; have : q ≤ -2 := by omega
        nlinarith
      omega
    rcases hqb with rfl | rfl <;> split <;> omega
  rw [BitVec.msb_eq_toInt, BitVec.msb_eq_toInt, BitVec.msb_eq_toInt]
  rw [hs] at hk
  generalize (2 : Int) ^ w = P at *
  generalize a.toInt = x at *
  generalize b.toInt = y at *
  generalize (a + b).toInt = z at *
  by_cases h1 : x < 0 <;> by_cases h2 : y < 0 <;> by_cases h3 : z < 0 <;> simp [h1, h2, h3] <;> omega

theorem sub_value {w : Nat} (d s : BitVec w) : (sub d s).value = d - s := by
  apply BitVec.eq_of_toNat_eq
  have hd := d.isLt
  have hs := s.isLt
  have hw : 2 ^ (w + 1) = 2 * 2 ^ w := by rw [Nat.pow_succ]; omega
  have h1 : (1 : BitVec (w + 1)).toNat = 1 := by
    simp
  simp only [sub, BitVec.toNat_setWidth, BitVec.toNat_add, BitVec.toNat_not, BitVec.toNat_sub, h1]
  rw [Nat.mod_eq_of_lt (by omega : d.toNat < 2 ^ (w + 1)), Nat.mod_eq_of_lt (by omega : 2 ^ w - 1 - s.toNat < 2 ^ (w + 1)),
    Nat.mod_eq_of_lt (by omega : d.toNat + (2 ^ w - 1 - s.toNat) < 2 ^ (w + 1)),
    Nat.mod_eq_of_lt (by omega : d.toNat + (2 ^ w - 1 - s.toNat) + 1 < 2 ^ (w + 1))]
  congr 1
  omega

/-- The carry of a difference: no borrow (40_addressing.md R134; log 12). -/
theorem sub_carry {w : Nat} (d s : BitVec w) : (sub d s).carry = decide (s.toNat ≤ d.toNat) := by
  have hd := d.isLt
  have hs := s.isLt
  have hw : 2 ^ (w + 1) = 2 * 2 ^ w := by rw [Nat.pow_succ]; omega
  have h1 : (1 : BitVec (w + 1)).toNat = 1 := by simp
  simp only [sub, BitVec.getLsbD, BitVec.toNat_add, BitVec.toNat_setWidth, BitVec.toNat_not, h1]
  rw [Nat.mod_eq_of_lt (by omega : d.toNat < 2 ^ (w + 1)), Nat.mod_eq_of_lt (by omega : 2 ^ w - 1 - s.toNat < 2 ^ (w + 1)),
    Nat.mod_eq_of_lt (by omega : d.toNat + (2 ^ w - 1 - s.toNat) < 2 ^ (w + 1)),
    Nat.mod_eq_of_lt (by omega : d.toNat + (2 ^ w - 1 - s.toNat) + 1 < 2 ^ (w + 1)),
    Nat.testBit_eq_decide_div_mod_eq, decide_eq_decide]
  by_cases h : s.toNat ≤ d.toNat
  · have : (d.toNat + (2 ^ w - 1 - s.toNat) + 1) / 2 ^ w = 1 := by
      rw [Nat.div_eq_iff (by omega)]; omega
    simp [this, h]
  · simp [Nat.div_eq_of_lt (by omega : d.toNat + (2 ^ w - 1 - s.toNat) + 1 < 2 ^ w), h]

/-- The overflow of a difference: the exact two's complement difference does not fit (40_addressing.md R134). -/
theorem sub_overflow {w : Nat} (d s : BitVec (w + 1)) :
    (Flag.ov, (sub d s).overflow) = overflowField (w + 1) (d.toInt - s.toInt) := by
  have hv : (sub d s).overflow = (d.msb != s.msb && (d - s).msb != d.msb) := by
    rw [← sub_value]; rfl
  simp only [overflowField, hv, Nat.add_sub_cancel, Prod.mk.injEq, true_and]
  have hp : (0 : Int) < 2 ^ w := Int.pow_pos (by decide)
  have hs : (2 : Int) ^ (w + 1) = 2 * 2 ^ w := by rw [Int.pow_succ]; omega
  have ha := BitVec.toInt_lt (x := d)
  have ha' := BitVec.le_toInt (x := d)
  have hb := BitVec.toInt_lt (x := s)
  have hb' := BitVec.le_toInt (x := s)
  have hsum := BitVec.toInt_sub (x := d) (y := s)
  have hr := BitVec.toInt_lt (x := d - s)
  have hr' := BitVec.le_toInt (x := d - s)
  simp only [Nat.add_sub_cancel] at ha ha' hb hb' hr hr'
  have hk : (d - s).toInt = d.toInt - s.toInt ∨ (d - s).toInt = d.toInt - s.toInt + 2 ^ (w + 1) ∨
      (d - s).toInt = d.toInt - s.toInt - 2 ^ (w + 1) := by
    rw [hsum, Int.bmod_def]
    have hc : ((2 ^ (w + 1) : Nat) : Int) = 2 ^ (w + 1) := by push_cast; rfl
    rw [hc]
    have e1 := Int.emod_add_mul_ediv (d.toInt - s.toInt) (2 ^ (w + 1))
    have e2 := Int.emod_nonneg (d.toInt - s.toInt) (by omega : (2 : Int) ^ (w + 1) ≠ 0)
    have e3 := Int.emod_lt_of_pos (d.toInt - s.toInt) (by omega : (0 : Int) < 2 ^ (w + 1))
    rw [hs] at e1 e2 e3 ⊢
    generalize (2 : Int) ^ w = P at *
    generalize hq : (d.toInt - s.toInt) / (2 * P) = q at *
    have hqb : q = 0 ∨ q = -1 := by
      have h1 : q < 1 := by
        by_contra hc; have : 1 ≤ q := by omega
        nlinarith
      have h2 : -2 < q := by
        by_contra hc; have : q ≤ -2 := by omega
        nlinarith
      omega
    rcases hqb with rfl | rfl <;> split <;> omega
  rw [BitVec.msb_eq_toInt, BitVec.msb_eq_toInt, BitVec.msb_eq_toInt]
  rw [hs] at hk
  generalize (2 : Int) ^ w = P at *
  generalize d.toInt = x at *
  generalize s.toInt = y at *
  generalize (d - s).toInt = z at *
  by_cases h1 : x < 0 <;> by_cases h2 : y < 0 <;> by_cases h3 : z < 0 <;> simp [h1, h2, h3] <;> omega

end Sys2Proof.Machine
end

