-- ==== Sys2Proof/Laws/Memory.lean ====
section
/-! SUPPORT. Memory: read after write, and every memory operation keeps the canonical form. -/

namespace Sys2Proof.Machine

/-! ## One byte -/

theorem Memory.byte_insert_same (a : Nat) (b : Byte) (m : Memory) : (Memory.insert a b m).byte a = b := by
  induction m with
  | nil => simp [Memory.insert, Memory.byte]
  | cons c m ih =>
    obtain ⟨k, x⟩ := c
    simp only [Memory.insert]
    split
    · simp [Memory.byte]
    · split
      · simp [Memory.byte]
      · rename_i h; simpa [Memory.byte, h] using ih

theorem Memory.byte_insert_ne {a q : Nat} (h : q ≠ a) (b : Byte) (m : Memory) :
    (Memory.insert a b m).byte q = m.byte q := by
  induction m with
  | nil => simp [Memory.insert, Memory.byte, h]
  | cons c m ih =>
    obtain ⟨k, x⟩ := c
    simp only [Memory.insert]
    split
    · simp [Memory.byte, h]
    · split
      · rename_i hk; subst hk; simp [Memory.byte, h]
      · simp [Memory.byte, ih]

theorem Memory.byte_erase_same (a : Nat) (m : Memory) : (Memory.erase a m).byte a = unlistedByte := by
  induction m with
  | nil => simp [Memory.erase, Memory.byte]
  | cons c m ih =>
    obtain ⟨k, x⟩ := c
    by_cases h : a = k
    · simpa [Memory.erase, h] using ih
    · simp [Memory.erase, Memory.byte, h, ih]

theorem Memory.byte_erase_ne {a q : Nat} (h : q ≠ a) (m : Memory) : (Memory.erase a m).byte q = m.byte q := by
  induction m with
  | nil => simp [Memory.erase, Memory.byte]
  | cons c m ih =>
    obtain ⟨k, x⟩ := c
    by_cases hk : a = k
    · subst hk; simp [Memory.erase, Memory.byte, h, ih]
    · simp [Memory.erase, Memory.byte, hk, ih]

/-- A byte written is the byte read. -/
@[simp] theorem Memory.byte_setByte_same (m : Memory) (a : Nat) (b : Byte) : (m.setByte a b).byte a = b := by
  unfold Memory.setByte
  split
  · rename_i h; rw [Memory.byte_erase_same, h]
  · exact Memory.byte_insert_same a b m

/-- A byte write leaves every other byte. -/
theorem Memory.byte_setByte_ne (m : Memory) {a q : Nat} (h : q ≠ a) (b : Byte) : (m.setByte a b).byte q = m.byte q := by
  unfold Memory.setByte
  split
  · exact Memory.byte_erase_ne h m
  · exact Memory.byte_insert_ne h b m

/-! ## One word -/

theorem wordOf_bytes (v : Word) : wordOf (leftByte v) (rightByte v) = v := by
  unfold wordOf leftByte rightByte
  apply BitVec.eq_of_getLsbD_eq
  intro i hi
  rw [BitVec.getLsbD_append]
  by_cases h : i < 8
  · simp [h]
  · simp only [h, if_false, BitVec.getLsbD_extractLsb']
    have h2 : i - 8 < 8 := by omega
    have h3 : 8 + (i - 8) = i := by omega
    simp [h2, h3]

@[simp] theorem leftByte_wordOf (x y : Byte) : leftByte (wordOf x y) = x := by
  apply BitVec.eq_of_getLsbD_eq
  intro i hi
  rw [leftByte, wordOf, BitVec.getLsbD_extractLsb', BitVec.getLsbD_append, if_neg (by omega), Nat.add_sub_cancel_left]
  simp only [hi, decide_true, Bool.true_and]

@[simp] theorem rightByte_wordOf (x y : Byte) : rightByte (wordOf x y) = y := by
  apply BitVec.eq_of_getLsbD_eq
  intro i hi
  rw [rightByte, wordOf, BitVec.getLsbD_extractLsb', BitVec.getLsbD_append, Nat.zero_add, if_pos hi]
  simp only [hi, decide_true, Bool.true_and]

/-- A word written is the word read. -/
@[simp] theorem Memory.word_setWord_same (m : Memory) (p : Nat) (v : Word) : (m.setWord p v).word p = v := by
  unfold Memory.word Memory.setWord
  rw [Memory.byte_setByte_ne _ (by omega), Memory.byte_setByte_same, Memory.byte_setByte_same, wordOf_bytes]

/-- A word write leaves every byte but its two. -/
theorem Memory.byte_setWord_ne (m : Memory) {p q : Nat} (h : q ≠ p) (h' : q ≠ p + 1) (v : Word) :
    (m.setWord p v).byte q = m.byte q := by
  unfold Memory.setWord
  rw [Memory.byte_setByte_ne _ h', Memory.byte_setByte_ne _ h]

theorem Memory.byte_setWord_left (m : Memory) (p : Nat) (v : Word) : (m.setWord p v).byte p = leftByte v := by
  unfold Memory.setWord
  rw [Memory.byte_setByte_ne _ (by omega), Memory.byte_setByte_same]

theorem Memory.byte_setWord_right (m : Memory) (p : Nat) (v : Word) : (m.setWord p v).byte (p + 1) = rightByte v := by
  unfold Memory.setWord
  rw [Memory.byte_setByte_same]

/-- A word write leaves every word apart from it. -/
theorem Memory.word_setWord_ne (m : Memory) {p q : Nat} (h : p + 1 < q ∨ q + 1 < p) (v : Word) :
    (m.setWord p v).word q = m.word q := by
  unfold Memory.word
  rw [Memory.byte_setWord_ne _ (by omega) (by omega), Memory.byte_setWord_ne _ (by omega) (by omega)]

/-! ## The canonical form -/

theorem Memory.below_insert {a k : Nat} {b : Byte} {m : Memory} (hm : Memory.below k m = true) (h : k < a) :
    Memory.below k (Memory.insert a b m) = true := by
  cases m with
  | nil => simp [Memory.insert, Memory.below, h]
  | cons c m =>
    obtain ⟨j, x⟩ := c
    simp only [Memory.insert]
    split
    · simp [Memory.below, h]
    · split
      · simp [Memory.below, h]
      · simpa [Memory.below] using hm

theorem Memory.wf_insert {a : Nat} {b : Byte} {m : Memory} (hb : b ≠ unlistedByte) (hm : m.wf = true) :
    (Memory.insert a b m).wf = true := by
  induction m with
  | nil => simp [Memory.insert, Memory.wf, Memory.below, hb]
  | cons c m ih =>
    obtain ⟨k, x⟩ := c
    simp only [Memory.wf, Bool.and_eq_true, bne_iff_ne, ne_eq] at hm
    simp only [Memory.insert]
    split
    · rename_i h
      rw [Memory.wf, Memory.wf, hm.2, hm.1.2, Memory.below, decide_eq_true h]
      simp [hb, hm.1.1]
    · split
      · rename_i h; subst h; simp [Memory.wf, hb, hm]
      · rename_i h h'
        simp [Memory.wf, hm, ih hm.2, Memory.below_insert hm.1.2 (by omega : k < a)]

theorem Memory.below_trans {j k : Nat} {m : Memory} (h : j < k) (hm : Memory.below k m = true) :
    Memory.below j m = true := by
  cases m with
  | nil => rfl
  | cons c m => simp [Memory.below] at hm ⊢; omega

theorem Memory.below_erase {a k : Nat} {m : Memory} (hm : m.wf = true) (hk : Memory.below k m = true) :
    Memory.below k (Memory.erase a m) = true := by
  induction m generalizing k with
  | nil => rfl
  | cons c m ih =>
    obtain ⟨j, x⟩ := c
    simp only [Memory.wf, Bool.and_eq_true, bne_iff_ne, ne_eq] at hm
    simp only [Memory.erase]
    split
    · exact ih hm.2 (Memory.below_trans (by simpa [Memory.below] using hk) hm.1.2)
    · simpa [Memory.below] using hk

theorem Memory.wf_erase {a : Nat} {m : Memory} (hm : m.wf = true) : (Memory.erase a m).wf = true := by
  induction m with
  | nil => rfl
  | cons c m ih =>
    obtain ⟨k, x⟩ := c
    simp only [Memory.wf, Bool.and_eq_true, bne_iff_ne, ne_eq] at hm
    simp only [Memory.erase]
    split
    · exact ih hm.2
    · simp [Memory.wf, hm, ih hm.2, Memory.below_erase hm.2 hm.1.2]

/-- A byte write keeps the canonical form. -/
theorem Memory.wf_setByte {m : Memory} (hm : m.wf = true) (a : Nat) (b : Byte) : (m.setByte a b).wf = true := by
  unfold Memory.setByte
  split
  · exact Memory.wf_erase hm
  · rename_i h; exact Memory.wf_insert h hm

/-- A word write keeps the canonical form. -/
theorem Memory.wf_setWord {m : Memory} (hm : m.wf = true) (p : Nat) (v : Word) : (m.setWord p v).wf = true :=
  Memory.wf_setByte (Memory.wf_setByte hm _ _) _ _

/-! ## The physical space -/

theorem Memory.inSpace_insert {a : Nat} {b : Byte} {m : Memory} (ha : a < 0x200000) (hm : m.inSpace = true) :
    (Memory.insert a b m).inSpace = true := by
  induction m with
  | nil => simp [Memory.insert, Memory.inSpace, ha]
  | cons c m ih =>
    obtain ⟨k, x⟩ := c
    simp only [Memory.inSpace, List.all_cons, Bool.and_eq_true, decide_eq_true_eq] at hm ih ⊢
    simp only [Memory.insert]
    split
    · simp [ha, hm]
    · split
      · simp [ha, hm]
      · simp [hm, ih hm.2]

theorem Memory.inSpace_erase {a : Nat} {m : Memory} (hm : m.inSpace = true) : (Memory.erase a m).inSpace = true := by
  induction m with
  | nil => rfl
  | cons c m ih =>
    obtain ⟨k, x⟩ := c
    simp only [Memory.inSpace, List.all_cons, Bool.and_eq_true, decide_eq_true_eq] at hm ih ⊢
    simp only [Memory.erase]
    split
    · exact ih hm.2
    · simp [hm, ih hm.2]

/-- A byte write inside the physical space keeps memory inside it. -/
theorem Memory.inSpace_setByte {m : Memory} {a : Nat} (ha : a < 0x200000) (hm : m.inSpace = true) (b : Byte) :
    (m.setByte a b).inSpace = true := by
  unfold Memory.setByte
  split
  · exact Memory.inSpace_erase hm
  · exact Memory.inSpace_insert ha hm

/-- A word write inside the physical space keeps memory inside it. -/
theorem Memory.inSpace_setWord {m : Memory} {p : Nat} (hp : p + 1 < 0x200000) (hm : m.inSpace = true) (v : Word) :
    (m.setWord p v).inSpace = true :=
  Memory.inSpace_setByte hp (Memory.inSpace_setByte (by omega) hm _) _

/-! ## Equal reads, equal memories -/

theorem Memory.byte_below {k : Nat} {m : Memory} (hm : m.wf = true) (hk : Memory.below k m = true) :
    ∀ q, q ≤ k → m.byte q = unlistedByte := by
  induction m generalizing k with
  | nil => intro q _; rfl
  | cons c m ih =>
    obtain ⟨j, x⟩ := c
    intro q hq
    simp only [Memory.wf, Bool.and_eq_true, bne_iff_ne, ne_eq] at hm
    have hj : k < j := by simpa [Memory.below] using hk
    simp only [Memory.byte]
    rw [if_neg (by omega)]
    exact ih hm.2 hm.1.2 q (by omega)

/-- Canonical memories that read alike are the same list. -/
theorem Memory.eq_of_byte_eq {m n : Memory} (hm : m.wf = true) (hn : n.wf = true)
    (h : ∀ q, m.byte q = n.byte q) : m = n := by
  induction m generalizing n with
  | nil =>
    cases n with
    | nil => rfl
    | cons c n =>
      obtain ⟨k, x⟩ := c
      have := h k
      simp only [Memory.wf, Bool.and_eq_true, bne_iff_ne, ne_eq] at hn
      simp [Memory.byte] at this
      exact absurd this.symm hn.1.1
  | cons c m ih =>
    obtain ⟨k, x⟩ := c
    simp only [Memory.wf, Bool.and_eq_true, bne_iff_ne, ne_eq] at hm
    cases n with
    | nil =>
      have := h k
      simp [Memory.byte] at this
      exact absurd this hm.1.1
    | cons d n =>
      obtain ⟨j, y⟩ := d
      simp only [Memory.wf, Bool.and_eq_true, bne_iff_ne, ne_eq] at hn
      have hkj : k = j := by
        rcases Nat.lt_trichotomy k j with hlt | heq | hgt
        · have := h k
          simp only [Memory.byte, if_true, if_neg (by omega : ¬ k = j)] at this
          rw [Memory.byte_below hn.2 hn.1.2 k (by omega)] at this
          exact absurd this hm.1.1
        · exact heq
        · have := h j
          simp only [Memory.byte, if_true, if_neg (by omega : ¬ j = k)] at this
          rw [Memory.byte_below hm.2 hm.1.2 j (by omega)] at this
          exact absurd this.symm hn.1.1
      subst hkj
      have hxy : x = y := by simpa [Memory.byte] using h k
      subst hxy
      congr 1
      apply ih hm.2 hn.2
      intro q
      by_cases hq : q = k
      · subst hq; rw [Memory.byte_below hm.2 hm.1.2 q (Nat.le_refl _), Memory.byte_below hn.2 hn.1.2 q (Nat.le_refl _)]
      · simpa [Memory.byte, hq] using h q

end Sys2Proof.Machine
end

