-- ==== Sys2Proof/Laws/State.lean ====
section
/-! SUPPORT. One lemma per field per named update of State. -/

namespace Sys2Proof.Machine

@[simp] theorem State.setWp_plat (s : State) (v : Word) : (s.setWp v).plat = s.plat := rfl
@[simp] theorem State.setWp_wp (s : State) (v : Word) : (s.setWp v).wp = v := rfl
@[simp] theorem State.setWp_pc (s : State) (v : Word) : (s.setWp v).pc = s.pc := rfl
@[simp] theorem State.setWp_st (s : State) (v : Word) : (s.setWp v).st = s.st := rfl
@[simp] theorem State.setWp_mem (s : State) (v : Word) : (s.setWp v).mem = s.mem := rfl
@[simp] theorem State.setWp_map0 (s : State) (v : Word) : (s.setWp v).map0 = s.map0 := rfl
@[simp] theorem State.setWp_map1 (s : State) (v : Word) : (s.setWp v).map1 = s.map1 := rfl
@[simp] theorem State.setWp_map2 (s : State) (v : Word) : (s.setWp v).map2 = s.map2 := rfl
@[simp] theorem State.setWp_ld (s : State) (v : Word) : (s.setWp v).ld = s.ld := rfl
@[simp] theorem State.setWp_irq (s : State) (v : Word) : (s.setWp v).irq = s.irq := rfl
@[simp] theorem State.setWp_clk (s : State) (v : Word) : (s.setWp v).clk = s.clk := rfl
@[simp] theorem State.setWp_err (s : State) (v : Word) : (s.setWp v).err = s.err := rfl
@[simp] theorem State.setWp_idle (s : State) (v : Word) : (s.setWp v).idle = s.idle := rfl
@[simp] theorem State.setWp_clken (s : State) (v : Word) : (s.setWp v).clken = s.clken := rfl
@[simp] theorem State.setWp_irqEnv (s : State) (v : Word) : (s.setWp v).irqEnv = s.irqEnv := rfl
@[simp] theorem State.setWp_dmaEnv (s : State) (v : Word) : (s.setWp v).dmaEnv = s.dmaEnv := rfl
@[simp] theorem State.setWp_events (s : State) (v : Word) : (s.setWp v).events = s.events := rfl
@[simp] theorem State.setWp_draws (s : State) (v : Word) : (s.setWp v).draws = s.draws := rfl

@[simp] theorem State.setPc_plat (s : State) (v : Word) : (s.setPc v).plat = s.plat := rfl
@[simp] theorem State.setPc_wp (s : State) (v : Word) : (s.setPc v).wp = s.wp := rfl
@[simp] theorem State.setPc_pc (s : State) (v : Word) : (s.setPc v).pc = v := rfl
@[simp] theorem State.setPc_st (s : State) (v : Word) : (s.setPc v).st = s.st := rfl
@[simp] theorem State.setPc_mem (s : State) (v : Word) : (s.setPc v).mem = s.mem := rfl
@[simp] theorem State.setPc_map0 (s : State) (v : Word) : (s.setPc v).map0 = s.map0 := rfl
@[simp] theorem State.setPc_map1 (s : State) (v : Word) : (s.setPc v).map1 = s.map1 := rfl
@[simp] theorem State.setPc_map2 (s : State) (v : Word) : (s.setPc v).map2 = s.map2 := rfl
@[simp] theorem State.setPc_ld (s : State) (v : Word) : (s.setPc v).ld = s.ld := rfl
@[simp] theorem State.setPc_irq (s : State) (v : Word) : (s.setPc v).irq = s.irq := rfl
@[simp] theorem State.setPc_clk (s : State) (v : Word) : (s.setPc v).clk = s.clk := rfl
@[simp] theorem State.setPc_err (s : State) (v : Word) : (s.setPc v).err = s.err := rfl
@[simp] theorem State.setPc_idle (s : State) (v : Word) : (s.setPc v).idle = s.idle := rfl
@[simp] theorem State.setPc_clken (s : State) (v : Word) : (s.setPc v).clken = s.clken := rfl
@[simp] theorem State.setPc_irqEnv (s : State) (v : Word) : (s.setPc v).irqEnv = s.irqEnv := rfl
@[simp] theorem State.setPc_dmaEnv (s : State) (v : Word) : (s.setPc v).dmaEnv = s.dmaEnv := rfl
@[simp] theorem State.setPc_events (s : State) (v : Word) : (s.setPc v).events = s.events := rfl
@[simp] theorem State.setPc_draws (s : State) (v : Word) : (s.setPc v).draws = s.draws := rfl

@[simp] theorem State.setSt_plat (s : State) (v : Word) : (s.setSt v).plat = s.plat := rfl
@[simp] theorem State.setSt_wp (s : State) (v : Word) : (s.setSt v).wp = s.wp := rfl
@[simp] theorem State.setSt_pc (s : State) (v : Word) : (s.setSt v).pc = s.pc := rfl
@[simp] theorem State.setSt_st (s : State) (v : Word) : (s.setSt v).st = v := rfl
@[simp] theorem State.setSt_mem (s : State) (v : Word) : (s.setSt v).mem = s.mem := rfl
@[simp] theorem State.setSt_map0 (s : State) (v : Word) : (s.setSt v).map0 = s.map0 := rfl
@[simp] theorem State.setSt_map1 (s : State) (v : Word) : (s.setSt v).map1 = s.map1 := rfl
@[simp] theorem State.setSt_map2 (s : State) (v : Word) : (s.setSt v).map2 = s.map2 := rfl
@[simp] theorem State.setSt_ld (s : State) (v : Word) : (s.setSt v).ld = s.ld := rfl
@[simp] theorem State.setSt_irq (s : State) (v : Word) : (s.setSt v).irq = s.irq := rfl
@[simp] theorem State.setSt_clk (s : State) (v : Word) : (s.setSt v).clk = s.clk := rfl
@[simp] theorem State.setSt_err (s : State) (v : Word) : (s.setSt v).err = s.err := rfl
@[simp] theorem State.setSt_idle (s : State) (v : Word) : (s.setSt v).idle = s.idle := rfl
@[simp] theorem State.setSt_clken (s : State) (v : Word) : (s.setSt v).clken = s.clken := rfl
@[simp] theorem State.setSt_irqEnv (s : State) (v : Word) : (s.setSt v).irqEnv = s.irqEnv := rfl
@[simp] theorem State.setSt_dmaEnv (s : State) (v : Word) : (s.setSt v).dmaEnv = s.dmaEnv := rfl
@[simp] theorem State.setSt_events (s : State) (v : Word) : (s.setSt v).events = s.events := rfl
@[simp] theorem State.setSt_draws (s : State) (v : Word) : (s.setSt v).draws = s.draws := rfl

@[simp] theorem State.setMem_plat (s : State) (v : Memory) : (s.setMem v).plat = s.plat := rfl
@[simp] theorem State.setMem_wp (s : State) (v : Memory) : (s.setMem v).wp = s.wp := rfl
@[simp] theorem State.setMem_pc (s : State) (v : Memory) : (s.setMem v).pc = s.pc := rfl
@[simp] theorem State.setMem_st (s : State) (v : Memory) : (s.setMem v).st = s.st := rfl
@[simp] theorem State.setMem_mem (s : State) (v : Memory) : (s.setMem v).mem = v := rfl
@[simp] theorem State.setMem_map0 (s : State) (v : Memory) : (s.setMem v).map0 = s.map0 := rfl
@[simp] theorem State.setMem_map1 (s : State) (v : Memory) : (s.setMem v).map1 = s.map1 := rfl
@[simp] theorem State.setMem_map2 (s : State) (v : Memory) : (s.setMem v).map2 = s.map2 := rfl
@[simp] theorem State.setMem_ld (s : State) (v : Memory) : (s.setMem v).ld = s.ld := rfl
@[simp] theorem State.setMem_irq (s : State) (v : Memory) : (s.setMem v).irq = s.irq := rfl
@[simp] theorem State.setMem_clk (s : State) (v : Memory) : (s.setMem v).clk = s.clk := rfl
@[simp] theorem State.setMem_err (s : State) (v : Memory) : (s.setMem v).err = s.err := rfl
@[simp] theorem State.setMem_idle (s : State) (v : Memory) : (s.setMem v).idle = s.idle := rfl
@[simp] theorem State.setMem_clken (s : State) (v : Memory) : (s.setMem v).clken = s.clken := rfl
@[simp] theorem State.setMem_irqEnv (s : State) (v : Memory) : (s.setMem v).irqEnv = s.irqEnv := rfl
@[simp] theorem State.setMem_dmaEnv (s : State) (v : Memory) : (s.setMem v).dmaEnv = s.dmaEnv := rfl
@[simp] theorem State.setMem_events (s : State) (v : Memory) : (s.setMem v).events = s.events := rfl
@[simp] theorem State.setMem_draws (s : State) (v : Memory) : (s.setMem v).draws = s.draws := rfl

@[simp] theorem State.setMap0_plat (s : State) (v : MapFile) : (s.setMap0 v).plat = s.plat := rfl
@[simp] theorem State.setMap0_wp (s : State) (v : MapFile) : (s.setMap0 v).wp = s.wp := rfl
@[simp] theorem State.setMap0_pc (s : State) (v : MapFile) : (s.setMap0 v).pc = s.pc := rfl
@[simp] theorem State.setMap0_st (s : State) (v : MapFile) : (s.setMap0 v).st = s.st := rfl
@[simp] theorem State.setMap0_mem (s : State) (v : MapFile) : (s.setMap0 v).mem = s.mem := rfl
@[simp] theorem State.setMap0_map0 (s : State) (v : MapFile) : (s.setMap0 v).map0 = v := rfl
@[simp] theorem State.setMap0_map1 (s : State) (v : MapFile) : (s.setMap0 v).map1 = s.map1 := rfl
@[simp] theorem State.setMap0_map2 (s : State) (v : MapFile) : (s.setMap0 v).map2 = s.map2 := rfl
@[simp] theorem State.setMap0_ld (s : State) (v : MapFile) : (s.setMap0 v).ld = s.ld := rfl
@[simp] theorem State.setMap0_irq (s : State) (v : MapFile) : (s.setMap0 v).irq = s.irq := rfl
@[simp] theorem State.setMap0_clk (s : State) (v : MapFile) : (s.setMap0 v).clk = s.clk := rfl
@[simp] theorem State.setMap0_err (s : State) (v : MapFile) : (s.setMap0 v).err = s.err := rfl
@[simp] theorem State.setMap0_idle (s : State) (v : MapFile) : (s.setMap0 v).idle = s.idle := rfl
@[simp] theorem State.setMap0_clken (s : State) (v : MapFile) : (s.setMap0 v).clken = s.clken := rfl
@[simp] theorem State.setMap0_irqEnv (s : State) (v : MapFile) : (s.setMap0 v).irqEnv = s.irqEnv := rfl
@[simp] theorem State.setMap0_dmaEnv (s : State) (v : MapFile) : (s.setMap0 v).dmaEnv = s.dmaEnv := rfl
@[simp] theorem State.setMap0_events (s : State) (v : MapFile) : (s.setMap0 v).events = s.events := rfl
@[simp] theorem State.setMap0_draws (s : State) (v : MapFile) : (s.setMap0 v).draws = s.draws := rfl

@[simp] theorem State.setMap1_plat (s : State) (v : MapFile) : (s.setMap1 v).plat = s.plat := rfl
@[simp] theorem State.setMap1_wp (s : State) (v : MapFile) : (s.setMap1 v).wp = s.wp := rfl
@[simp] theorem State.setMap1_pc (s : State) (v : MapFile) : (s.setMap1 v).pc = s.pc := rfl
@[simp] theorem State.setMap1_st (s : State) (v : MapFile) : (s.setMap1 v).st = s.st := rfl
@[simp] theorem State.setMap1_mem (s : State) (v : MapFile) : (s.setMap1 v).mem = s.mem := rfl
@[simp] theorem State.setMap1_map0 (s : State) (v : MapFile) : (s.setMap1 v).map0 = s.map0 := rfl
@[simp] theorem State.setMap1_map1 (s : State) (v : MapFile) : (s.setMap1 v).map1 = v := rfl
@[simp] theorem State.setMap1_map2 (s : State) (v : MapFile) : (s.setMap1 v).map2 = s.map2 := rfl
@[simp] theorem State.setMap1_ld (s : State) (v : MapFile) : (s.setMap1 v).ld = s.ld := rfl
@[simp] theorem State.setMap1_irq (s : State) (v : MapFile) : (s.setMap1 v).irq = s.irq := rfl
@[simp] theorem State.setMap1_clk (s : State) (v : MapFile) : (s.setMap1 v).clk = s.clk := rfl
@[simp] theorem State.setMap1_err (s : State) (v : MapFile) : (s.setMap1 v).err = s.err := rfl
@[simp] theorem State.setMap1_idle (s : State) (v : MapFile) : (s.setMap1 v).idle = s.idle := rfl
@[simp] theorem State.setMap1_clken (s : State) (v : MapFile) : (s.setMap1 v).clken = s.clken := rfl
@[simp] theorem State.setMap1_irqEnv (s : State) (v : MapFile) : (s.setMap1 v).irqEnv = s.irqEnv := rfl
@[simp] theorem State.setMap1_dmaEnv (s : State) (v : MapFile) : (s.setMap1 v).dmaEnv = s.dmaEnv := rfl
@[simp] theorem State.setMap1_events (s : State) (v : MapFile) : (s.setMap1 v).events = s.events := rfl
@[simp] theorem State.setMap1_draws (s : State) (v : MapFile) : (s.setMap1 v).draws = s.draws := rfl

@[simp] theorem State.setMap2_plat (s : State) (v : MapFile) : (s.setMap2 v).plat = s.plat := rfl
@[simp] theorem State.setMap2_wp (s : State) (v : MapFile) : (s.setMap2 v).wp = s.wp := rfl
@[simp] theorem State.setMap2_pc (s : State) (v : MapFile) : (s.setMap2 v).pc = s.pc := rfl
@[simp] theorem State.setMap2_st (s : State) (v : MapFile) : (s.setMap2 v).st = s.st := rfl
@[simp] theorem State.setMap2_mem (s : State) (v : MapFile) : (s.setMap2 v).mem = s.mem := rfl
@[simp] theorem State.setMap2_map0 (s : State) (v : MapFile) : (s.setMap2 v).map0 = s.map0 := rfl
@[simp] theorem State.setMap2_map1 (s : State) (v : MapFile) : (s.setMap2 v).map1 = s.map1 := rfl
@[simp] theorem State.setMap2_map2 (s : State) (v : MapFile) : (s.setMap2 v).map2 = v := rfl
@[simp] theorem State.setMap2_ld (s : State) (v : MapFile) : (s.setMap2 v).ld = s.ld := rfl
@[simp] theorem State.setMap2_irq (s : State) (v : MapFile) : (s.setMap2 v).irq = s.irq := rfl
@[simp] theorem State.setMap2_clk (s : State) (v : MapFile) : (s.setMap2 v).clk = s.clk := rfl
@[simp] theorem State.setMap2_err (s : State) (v : MapFile) : (s.setMap2 v).err = s.err := rfl
@[simp] theorem State.setMap2_idle (s : State) (v : MapFile) : (s.setMap2 v).idle = s.idle := rfl
@[simp] theorem State.setMap2_clken (s : State) (v : MapFile) : (s.setMap2 v).clken = s.clken := rfl
@[simp] theorem State.setMap2_irqEnv (s : State) (v : MapFile) : (s.setMap2 v).irqEnv = s.irqEnv := rfl
@[simp] theorem State.setMap2_dmaEnv (s : State) (v : MapFile) : (s.setMap2 v).dmaEnv = s.dmaEnv := rfl
@[simp] theorem State.setMap2_events (s : State) (v : MapFile) : (s.setMap2 v).events = s.events := rfl
@[simp] theorem State.setMap2_draws (s : State) (v : MapFile) : (s.setMap2 v).draws = s.draws := rfl

@[simp] theorem State.setLd_plat (s : State) (v : LongDistance) : (s.setLd v).plat = s.plat := rfl
@[simp] theorem State.setLd_wp (s : State) (v : LongDistance) : (s.setLd v).wp = s.wp := rfl
@[simp] theorem State.setLd_pc (s : State) (v : LongDistance) : (s.setLd v).pc = s.pc := rfl
@[simp] theorem State.setLd_st (s : State) (v : LongDistance) : (s.setLd v).st = s.st := rfl
@[simp] theorem State.setLd_mem (s : State) (v : LongDistance) : (s.setLd v).mem = s.mem := rfl
@[simp] theorem State.setLd_map0 (s : State) (v : LongDistance) : (s.setLd v).map0 = s.map0 := rfl
@[simp] theorem State.setLd_map1 (s : State) (v : LongDistance) : (s.setLd v).map1 = s.map1 := rfl
@[simp] theorem State.setLd_map2 (s : State) (v : LongDistance) : (s.setLd v).map2 = s.map2 := rfl
@[simp] theorem State.setLd_ld (s : State) (v : LongDistance) : (s.setLd v).ld = v := rfl
@[simp] theorem State.setLd_irq (s : State) (v : LongDistance) : (s.setLd v).irq = s.irq := rfl
@[simp] theorem State.setLd_clk (s : State) (v : LongDistance) : (s.setLd v).clk = s.clk := rfl
@[simp] theorem State.setLd_err (s : State) (v : LongDistance) : (s.setLd v).err = s.err := rfl
@[simp] theorem State.setLd_idle (s : State) (v : LongDistance) : (s.setLd v).idle = s.idle := rfl
@[simp] theorem State.setLd_clken (s : State) (v : LongDistance) : (s.setLd v).clken = s.clken := rfl
@[simp] theorem State.setLd_irqEnv (s : State) (v : LongDistance) : (s.setLd v).irqEnv = s.irqEnv := rfl
@[simp] theorem State.setLd_dmaEnv (s : State) (v : LongDistance) : (s.setLd v).dmaEnv = s.dmaEnv := rfl
@[simp] theorem State.setLd_events (s : State) (v : LongDistance) : (s.setLd v).events = s.events := rfl
@[simp] theorem State.setLd_draws (s : State) (v : LongDistance) : (s.setLd v).draws = s.draws := rfl

@[simp] theorem State.setErr_plat (s : State) (v : Bool) : (s.setErr v).plat = s.plat := rfl
@[simp] theorem State.setErr_wp (s : State) (v : Bool) : (s.setErr v).wp = s.wp := rfl
@[simp] theorem State.setErr_pc (s : State) (v : Bool) : (s.setErr v).pc = s.pc := rfl
@[simp] theorem State.setErr_st (s : State) (v : Bool) : (s.setErr v).st = s.st := rfl
@[simp] theorem State.setErr_mem (s : State) (v : Bool) : (s.setErr v).mem = s.mem := rfl
@[simp] theorem State.setErr_map0 (s : State) (v : Bool) : (s.setErr v).map0 = s.map0 := rfl
@[simp] theorem State.setErr_map1 (s : State) (v : Bool) : (s.setErr v).map1 = s.map1 := rfl
@[simp] theorem State.setErr_map2 (s : State) (v : Bool) : (s.setErr v).map2 = s.map2 := rfl
@[simp] theorem State.setErr_ld (s : State) (v : Bool) : (s.setErr v).ld = s.ld := rfl
@[simp] theorem State.setErr_irq (s : State) (v : Bool) : (s.setErr v).irq = s.irq := rfl
@[simp] theorem State.setErr_clk (s : State) (v : Bool) : (s.setErr v).clk = s.clk := rfl
@[simp] theorem State.setErr_err (s : State) (v : Bool) : (s.setErr v).err = v := rfl
@[simp] theorem State.setErr_idle (s : State) (v : Bool) : (s.setErr v).idle = s.idle := rfl
@[simp] theorem State.setErr_clken (s : State) (v : Bool) : (s.setErr v).clken = s.clken := rfl
@[simp] theorem State.setErr_irqEnv (s : State) (v : Bool) : (s.setErr v).irqEnv = s.irqEnv := rfl
@[simp] theorem State.setErr_dmaEnv (s : State) (v : Bool) : (s.setErr v).dmaEnv = s.dmaEnv := rfl
@[simp] theorem State.setErr_events (s : State) (v : Bool) : (s.setErr v).events = s.events := rfl
@[simp] theorem State.setErr_draws (s : State) (v : Bool) : (s.setErr v).draws = s.draws := rfl

@[simp] theorem State.setIdle_plat (s : State) (v : Bool) : (s.setIdle v).plat = s.plat := rfl
@[simp] theorem State.setIdle_wp (s : State) (v : Bool) : (s.setIdle v).wp = s.wp := rfl
@[simp] theorem State.setIdle_pc (s : State) (v : Bool) : (s.setIdle v).pc = s.pc := rfl
@[simp] theorem State.setIdle_st (s : State) (v : Bool) : (s.setIdle v).st = s.st := rfl
@[simp] theorem State.setIdle_mem (s : State) (v : Bool) : (s.setIdle v).mem = s.mem := rfl
@[simp] theorem State.setIdle_map0 (s : State) (v : Bool) : (s.setIdle v).map0 = s.map0 := rfl
@[simp] theorem State.setIdle_map1 (s : State) (v : Bool) : (s.setIdle v).map1 = s.map1 := rfl
@[simp] theorem State.setIdle_map2 (s : State) (v : Bool) : (s.setIdle v).map2 = s.map2 := rfl
@[simp] theorem State.setIdle_ld (s : State) (v : Bool) : (s.setIdle v).ld = s.ld := rfl
@[simp] theorem State.setIdle_irq (s : State) (v : Bool) : (s.setIdle v).irq = s.irq := rfl
@[simp] theorem State.setIdle_clk (s : State) (v : Bool) : (s.setIdle v).clk = s.clk := rfl
@[simp] theorem State.setIdle_err (s : State) (v : Bool) : (s.setIdle v).err = s.err := rfl
@[simp] theorem State.setIdle_idle (s : State) (v : Bool) : (s.setIdle v).idle = v := rfl
@[simp] theorem State.setIdle_clken (s : State) (v : Bool) : (s.setIdle v).clken = s.clken := rfl
@[simp] theorem State.setIdle_irqEnv (s : State) (v : Bool) : (s.setIdle v).irqEnv = s.irqEnv := rfl
@[simp] theorem State.setIdle_dmaEnv (s : State) (v : Bool) : (s.setIdle v).dmaEnv = s.dmaEnv := rfl
@[simp] theorem State.setIdle_events (s : State) (v : Bool) : (s.setIdle v).events = s.events := rfl
@[simp] theorem State.setIdle_draws (s : State) (v : Bool) : (s.setIdle v).draws = s.draws := rfl

@[simp] theorem State.setClken_plat (s : State) (v : Bool) : (s.setClken v).plat = s.plat := rfl
@[simp] theorem State.setClken_wp (s : State) (v : Bool) : (s.setClken v).wp = s.wp := rfl
@[simp] theorem State.setClken_pc (s : State) (v : Bool) : (s.setClken v).pc = s.pc := rfl
@[simp] theorem State.setClken_st (s : State) (v : Bool) : (s.setClken v).st = s.st := rfl
@[simp] theorem State.setClken_mem (s : State) (v : Bool) : (s.setClken v).mem = s.mem := rfl
@[simp] theorem State.setClken_map0 (s : State) (v : Bool) : (s.setClken v).map0 = s.map0 := rfl
@[simp] theorem State.setClken_map1 (s : State) (v : Bool) : (s.setClken v).map1 = s.map1 := rfl
@[simp] theorem State.setClken_map2 (s : State) (v : Bool) : (s.setClken v).map2 = s.map2 := rfl
@[simp] theorem State.setClken_ld (s : State) (v : Bool) : (s.setClken v).ld = s.ld := rfl
@[simp] theorem State.setClken_irq (s : State) (v : Bool) : (s.setClken v).irq = s.irq := rfl
@[simp] theorem State.setClken_clk (s : State) (v : Bool) : (s.setClken v).clk = s.clk := rfl
@[simp] theorem State.setClken_err (s : State) (v : Bool) : (s.setClken v).err = s.err := rfl
@[simp] theorem State.setClken_idle (s : State) (v : Bool) : (s.setClken v).idle = s.idle := rfl
@[simp] theorem State.setClken_clken (s : State) (v : Bool) : (s.setClken v).clken = v := rfl
@[simp] theorem State.setClken_irqEnv (s : State) (v : Bool) : (s.setClken v).irqEnv = s.irqEnv := rfl
@[simp] theorem State.setClken_dmaEnv (s : State) (v : Bool) : (s.setClken v).dmaEnv = s.dmaEnv := rfl
@[simp] theorem State.setClken_events (s : State) (v : Bool) : (s.setClken v).events = s.events := rfl
@[simp] theorem State.setClken_draws (s : State) (v : Bool) : (s.setClken v).draws = s.draws := rfl

@[simp] theorem State.setEvents_plat (s : State) (v : List Event) : (s.setEvents v).plat = s.plat := rfl
@[simp] theorem State.setEvents_wp (s : State) (v : List Event) : (s.setEvents v).wp = s.wp := rfl
@[simp] theorem State.setEvents_pc (s : State) (v : List Event) : (s.setEvents v).pc = s.pc := rfl
@[simp] theorem State.setEvents_st (s : State) (v : List Event) : (s.setEvents v).st = s.st := rfl
@[simp] theorem State.setEvents_mem (s : State) (v : List Event) : (s.setEvents v).mem = s.mem := rfl
@[simp] theorem State.setEvents_map0 (s : State) (v : List Event) : (s.setEvents v).map0 = s.map0 := rfl
@[simp] theorem State.setEvents_map1 (s : State) (v : List Event) : (s.setEvents v).map1 = s.map1 := rfl
@[simp] theorem State.setEvents_map2 (s : State) (v : List Event) : (s.setEvents v).map2 = s.map2 := rfl
@[simp] theorem State.setEvents_ld (s : State) (v : List Event) : (s.setEvents v).ld = s.ld := rfl
@[simp] theorem State.setEvents_irq (s : State) (v : List Event) : (s.setEvents v).irq = s.irq := rfl
@[simp] theorem State.setEvents_clk (s : State) (v : List Event) : (s.setEvents v).clk = s.clk := rfl
@[simp] theorem State.setEvents_err (s : State) (v : List Event) : (s.setEvents v).err = s.err := rfl
@[simp] theorem State.setEvents_idle (s : State) (v : List Event) : (s.setEvents v).idle = s.idle := rfl
@[simp] theorem State.setEvents_clken (s : State) (v : List Event) : (s.setEvents v).clken = s.clken := rfl
@[simp] theorem State.setEvents_irqEnv (s : State) (v : List Event) : (s.setEvents v).irqEnv = s.irqEnv := rfl
@[simp] theorem State.setEvents_dmaEnv (s : State) (v : List Event) : (s.setEvents v).dmaEnv = s.dmaEnv := rfl
@[simp] theorem State.setEvents_events (s : State) (v : List Event) : (s.setEvents v).events = v := rfl
@[simp] theorem State.setEvents_draws (s : State) (v : List Event) : (s.setEvents v).draws = s.draws := rfl

@[simp] theorem State.setDraws_plat (s : State) (v : Nat) : (s.setDraws v).plat = s.plat := rfl
@[simp] theorem State.setDraws_wp (s : State) (v : Nat) : (s.setDraws v).wp = s.wp := rfl
@[simp] theorem State.setDraws_pc (s : State) (v : Nat) : (s.setDraws v).pc = s.pc := rfl
@[simp] theorem State.setDraws_st (s : State) (v : Nat) : (s.setDraws v).st = s.st := rfl
@[simp] theorem State.setDraws_mem (s : State) (v : Nat) : (s.setDraws v).mem = s.mem := rfl
@[simp] theorem State.setDraws_map0 (s : State) (v : Nat) : (s.setDraws v).map0 = s.map0 := rfl
@[simp] theorem State.setDraws_map1 (s : State) (v : Nat) : (s.setDraws v).map1 = s.map1 := rfl
@[simp] theorem State.setDraws_map2 (s : State) (v : Nat) : (s.setDraws v).map2 = s.map2 := rfl
@[simp] theorem State.setDraws_ld (s : State) (v : Nat) : (s.setDraws v).ld = s.ld := rfl
@[simp] theorem State.setDraws_irq (s : State) (v : Nat) : (s.setDraws v).irq = s.irq := rfl
@[simp] theorem State.setDraws_clk (s : State) (v : Nat) : (s.setDraws v).clk = s.clk := rfl
@[simp] theorem State.setDraws_err (s : State) (v : Nat) : (s.setDraws v).err = s.err := rfl
@[simp] theorem State.setDraws_idle (s : State) (v : Nat) : (s.setDraws v).idle = s.idle := rfl
@[simp] theorem State.setDraws_clken (s : State) (v : Nat) : (s.setDraws v).clken = s.clken := rfl
@[simp] theorem State.setDraws_irqEnv (s : State) (v : Nat) : (s.setDraws v).irqEnv = s.irqEnv := rfl
@[simp] theorem State.setDraws_dmaEnv (s : State) (v : Nat) : (s.setDraws v).dmaEnv = s.dmaEnv := rfl
@[simp] theorem State.setDraws_events (s : State) (v : Nat) : (s.setDraws v).events = s.events := rfl
@[simp] theorem State.setDraws_draws (s : State) (v : Nat) : (s.setDraws v).draws = v := rfl

@[simp] theorem State.setIrq_plat (s : State) (v : BitVec 16) : (s.setIrq v).plat = s.plat := rfl
@[simp] theorem State.setIrq_wp (s : State) (v : BitVec 16) : (s.setIrq v).wp = s.wp := rfl
@[simp] theorem State.setIrq_pc (s : State) (v : BitVec 16) : (s.setIrq v).pc = s.pc := rfl
@[simp] theorem State.setIrq_st (s : State) (v : BitVec 16) : (s.setIrq v).st = s.st := rfl
@[simp] theorem State.setIrq_mem (s : State) (v : BitVec 16) : (s.setIrq v).mem = s.mem := rfl
@[simp] theorem State.setIrq_map0 (s : State) (v : BitVec 16) : (s.setIrq v).map0 = s.map0 := rfl
@[simp] theorem State.setIrq_map1 (s : State) (v : BitVec 16) : (s.setIrq v).map1 = s.map1 := rfl
@[simp] theorem State.setIrq_map2 (s : State) (v : BitVec 16) : (s.setIrq v).map2 = s.map2 := rfl
@[simp] theorem State.setIrq_ld (s : State) (v : BitVec 16) : (s.setIrq v).ld = s.ld := rfl
@[simp] theorem State.setIrq_irq (s : State) (v : BitVec 16) : (s.setIrq v).irq = v := rfl
@[simp] theorem State.setIrq_clk (s : State) (v : BitVec 16) : (s.setIrq v).clk = s.clk := rfl
@[simp] theorem State.setIrq_err (s : State) (v : BitVec 16) : (s.setIrq v).err = s.err := rfl
@[simp] theorem State.setIrq_idle (s : State) (v : BitVec 16) : (s.setIrq v).idle = s.idle := rfl
@[simp] theorem State.setIrq_clken (s : State) (v : BitVec 16) : (s.setIrq v).clken = s.clken := rfl
@[simp] theorem State.setIrq_irqEnv (s : State) (v : BitVec 16) : (s.setIrq v).irqEnv = s.irqEnv := rfl
@[simp] theorem State.setIrq_dmaEnv (s : State) (v : BitVec 16) : (s.setIrq v).dmaEnv = s.dmaEnv := rfl
@[simp] theorem State.setIrq_events (s : State) (v : BitVec 16) : (s.setIrq v).events = s.events := rfl
@[simp] theorem State.setIrq_draws (s : State) (v : BitVec 16) : (s.setIrq v).draws = s.draws := rfl

@[simp] theorem State.setClk_plat (s : State) (v : Bool) : (s.setClk v).plat = s.plat := rfl
@[simp] theorem State.setClk_wp (s : State) (v : Bool) : (s.setClk v).wp = s.wp := rfl
@[simp] theorem State.setClk_pc (s : State) (v : Bool) : (s.setClk v).pc = s.pc := rfl
@[simp] theorem State.setClk_st (s : State) (v : Bool) : (s.setClk v).st = s.st := rfl
@[simp] theorem State.setClk_mem (s : State) (v : Bool) : (s.setClk v).mem = s.mem := rfl
@[simp] theorem State.setClk_map0 (s : State) (v : Bool) : (s.setClk v).map0 = s.map0 := rfl
@[simp] theorem State.setClk_map1 (s : State) (v : Bool) : (s.setClk v).map1 = s.map1 := rfl
@[simp] theorem State.setClk_map2 (s : State) (v : Bool) : (s.setClk v).map2 = s.map2 := rfl
@[simp] theorem State.setClk_ld (s : State) (v : Bool) : (s.setClk v).ld = s.ld := rfl
@[simp] theorem State.setClk_irq (s : State) (v : Bool) : (s.setClk v).irq = s.irq := rfl
@[simp] theorem State.setClk_clk (s : State) (v : Bool) : (s.setClk v).clk = v := rfl
@[simp] theorem State.setClk_err (s : State) (v : Bool) : (s.setClk v).err = s.err := rfl
@[simp] theorem State.setClk_idle (s : State) (v : Bool) : (s.setClk v).idle = s.idle := rfl
@[simp] theorem State.setClk_clken (s : State) (v : Bool) : (s.setClk v).clken = s.clken := rfl
@[simp] theorem State.setClk_irqEnv (s : State) (v : Bool) : (s.setClk v).irqEnv = s.irqEnv := rfl
@[simp] theorem State.setClk_dmaEnv (s : State) (v : Bool) : (s.setClk v).dmaEnv = s.dmaEnv := rfl
@[simp] theorem State.setClk_events (s : State) (v : Bool) : (s.setClk v).events = s.events := rfl
@[simp] theorem State.setClk_draws (s : State) (v : Bool) : (s.setClk v).draws = s.draws := rfl

@[simp] theorem State.setIrqEnv_plat (s : State) (v : List RequestSample) : (s.setIrqEnv v).plat = s.plat := rfl
@[simp] theorem State.setIrqEnv_wp (s : State) (v : List RequestSample) : (s.setIrqEnv v).wp = s.wp := rfl
@[simp] theorem State.setIrqEnv_pc (s : State) (v : List RequestSample) : (s.setIrqEnv v).pc = s.pc := rfl
@[simp] theorem State.setIrqEnv_st (s : State) (v : List RequestSample) : (s.setIrqEnv v).st = s.st := rfl
@[simp] theorem State.setIrqEnv_mem (s : State) (v : List RequestSample) : (s.setIrqEnv v).mem = s.mem := rfl
@[simp] theorem State.setIrqEnv_map0 (s : State) (v : List RequestSample) : (s.setIrqEnv v).map0 = s.map0 := rfl
@[simp] theorem State.setIrqEnv_map1 (s : State) (v : List RequestSample) : (s.setIrqEnv v).map1 = s.map1 := rfl
@[simp] theorem State.setIrqEnv_map2 (s : State) (v : List RequestSample) : (s.setIrqEnv v).map2 = s.map2 := rfl
@[simp] theorem State.setIrqEnv_ld (s : State) (v : List RequestSample) : (s.setIrqEnv v).ld = s.ld := rfl
@[simp] theorem State.setIrqEnv_irq (s : State) (v : List RequestSample) : (s.setIrqEnv v).irq = s.irq := rfl
@[simp] theorem State.setIrqEnv_clk (s : State) (v : List RequestSample) : (s.setIrqEnv v).clk = s.clk := rfl
@[simp] theorem State.setIrqEnv_err (s : State) (v : List RequestSample) : (s.setIrqEnv v).err = s.err := rfl
@[simp] theorem State.setIrqEnv_idle (s : State) (v : List RequestSample) : (s.setIrqEnv v).idle = s.idle := rfl
@[simp] theorem State.setIrqEnv_clken (s : State) (v : List RequestSample) : (s.setIrqEnv v).clken = s.clken := rfl
@[simp] theorem State.setIrqEnv_irqEnv (s : State) (v : List RequestSample) : (s.setIrqEnv v).irqEnv = v := rfl
@[simp] theorem State.setIrqEnv_dmaEnv (s : State) (v : List RequestSample) : (s.setIrqEnv v).dmaEnv = s.dmaEnv := rfl
@[simp] theorem State.setIrqEnv_events (s : State) (v : List RequestSample) : (s.setIrqEnv v).events = s.events := rfl
@[simp] theorem State.setIrqEnv_draws (s : State) (v : List RequestSample) : (s.setIrqEnv v).draws = s.draws := rfl

@[simp] theorem State.setDmaEnv_plat (s : State) (v : List (List ByteWrite)) : (s.setDmaEnv v).plat = s.plat := rfl
@[simp] theorem State.setDmaEnv_wp (s : State) (v : List (List ByteWrite)) : (s.setDmaEnv v).wp = s.wp := rfl
@[simp] theorem State.setDmaEnv_pc (s : State) (v : List (List ByteWrite)) : (s.setDmaEnv v).pc = s.pc := rfl
@[simp] theorem State.setDmaEnv_st (s : State) (v : List (List ByteWrite)) : (s.setDmaEnv v).st = s.st := rfl
@[simp] theorem State.setDmaEnv_mem (s : State) (v : List (List ByteWrite)) : (s.setDmaEnv v).mem = s.mem := rfl
@[simp] theorem State.setDmaEnv_map0 (s : State) (v : List (List ByteWrite)) : (s.setDmaEnv v).map0 = s.map0 := rfl
@[simp] theorem State.setDmaEnv_map1 (s : State) (v : List (List ByteWrite)) : (s.setDmaEnv v).map1 = s.map1 := rfl
@[simp] theorem State.setDmaEnv_map2 (s : State) (v : List (List ByteWrite)) : (s.setDmaEnv v).map2 = s.map2 := rfl
@[simp] theorem State.setDmaEnv_ld (s : State) (v : List (List ByteWrite)) : (s.setDmaEnv v).ld = s.ld := rfl
@[simp] theorem State.setDmaEnv_irq (s : State) (v : List (List ByteWrite)) : (s.setDmaEnv v).irq = s.irq := rfl
@[simp] theorem State.setDmaEnv_clk (s : State) (v : List (List ByteWrite)) : (s.setDmaEnv v).clk = s.clk := rfl
@[simp] theorem State.setDmaEnv_err (s : State) (v : List (List ByteWrite)) : (s.setDmaEnv v).err = s.err := rfl
@[simp] theorem State.setDmaEnv_idle (s : State) (v : List (List ByteWrite)) : (s.setDmaEnv v).idle = s.idle := rfl
@[simp] theorem State.setDmaEnv_clken (s : State) (v : List (List ByteWrite)) : (s.setDmaEnv v).clken = s.clken := rfl
@[simp] theorem State.setDmaEnv_irqEnv (s : State) (v : List (List ByteWrite)) : (s.setDmaEnv v).irqEnv = s.irqEnv := rfl
@[simp] theorem State.setDmaEnv_dmaEnv (s : State) (v : List (List ByteWrite)) : (s.setDmaEnv v).dmaEnv = v := rfl
@[simp] theorem State.setDmaEnv_events (s : State) (v : List (List ByteWrite)) : (s.setDmaEnv v).events = s.events := rfl
@[simp] theorem State.setDmaEnv_draws (s : State) (v : List (List ByteWrite)) : (s.setDmaEnv v).draws = s.draws := rfl

end Sys2Proof.Machine
end

