-- ==== Sys2Proof/Laws/Ops.lean ====
section
/-! SUPPORT. What the shared operations can do, once each: how operations compose, what an access answers and leaves, how
an instruction ends. -/

namespace Sys2Proof.Machine

/-! ## Composition -/

/-- A sequence whose first part answers goes on with its answer. -/
theorem Op.bind_ok {α β : Type} {x : Op α} {f : α → Op β} {s s1 : State} {a : α} (h : x s = .ok (a, s1)) :
    (x >>= f) s = f a s1 := by
  simp only [bind, StateT.bind, h, Except.bind]

/-- A sequence whose first part stops has stopped. -/
theorem Op.bind_error {α β : Type} {x : Op α} {f : α → Op β} {s : State} {e : Stop} (h : x s = .error e) :
    (x >>= f) s = .error e := by
  simp only [bind, StateT.bind, h, Except.bind]

/-- A sequence answers exactly when both its parts do. -/
theorem Op.bind_eq_ok {α β : Type} {x : Op α} {f : α → Op β} {s : State} {r : β × State} :
    (x >>= f) s = .ok r ↔ ∃ a s1, x s = .ok (a, s1) ∧ f a s1 = .ok r := by
  cases h : x s with
  | error e => rw [Op.bind_error h]; simp
  | ok p =>
    obtain ⟨a, s1⟩ := p
    rw [Op.bind_ok h]
    simp

@[simp] theorem Op.pure_apply {α : Type} (a : α) (s : State) : (pure a : Op α) s = .ok (a, s) := rfl
@[simp] theorem Op.get_apply (s : State) : (get : Op State) s = .ok (s, s) := rfl
@[simp] theorem update_apply (f : State → State) (s : State) : update f s = .ok ((), f s) := rfl
@[simp] theorem stop_apply {α : Type} (e : Stop) (s : State) : (stop e : Op α) s = .error e := rfl
@[simp] theorem setStatus_apply (f : Word → Word) (s : State) : setStatus f s = .ok ((), s.setSt (f s.st)) := rfl
@[simp] theorem signal_apply (c : Control) (s : State) : signal c s = .ok ((), s.emit (.signal c)) := rfl
@[simp] theorem cruOut_apply (l : BitVec 12) (b : Bool) (s : State) : cruOut l b s = .ok ((), s.emit (.cruOut l b)) := rfl

/-- A change of the state comes first. -/
@[simp] theorem Op.update_bind {β : Type} (f : State → State) (k : Unit → Op β) (s : State) :
    (update f >>= k) s = k () (f s) := rfl

/-- Reading the state leaves it. -/
@[simp] theorem Op.get_bind {β : Type} (k : State → Op β) (s : State) : ((get : Op State) >>= k) s = k s s := rfl

/-- An answer with no effect leaves the state. -/
@[simp] theorem Op.pure_bind {α β : Type} (a : α) (k : α → Op β) (s : State) : ((pure a : Op α) >>= k) s = k a s := rfl

@[simp] theorem Op.setStatus_bind {β : Type} (f : Word → Word) (k : Unit → Op β) (s : State) :
    (setStatus f >>= k) s = k () (s.setSt (f s.st)) := rfl

/-! ## The environment's turn -/

/-- Bytes another agent writes leave every other byte. -/
theorem writtenBy_byte_ne (plat : Config.Platform) {q : Nat} :
    ∀ (ws : List ByteWrite) (m : Memory), (∀ w ∈ ws, w.address.toNat ≠ q) → (writtenBy plat ws m).byte q = m.byte q
  | [], _, _ => rfl
  | w :: ws, m, h => by
    rw [writtenBy, writtenBy_byte_ne plat ws _ fun x hx => h x (.tail _ hx)]
    split
    · exact Memory.byte_setByte_ne m (fun e => h w (.head _) e.symm) w.value
    · rfl

/-- Bytes another agent writes are in RAM. -/
theorem writtenBy_byte_kind (plat : Config.Platform) {q : Nat} (hq : plat.kindAt q ≠ some .ram) :
    ∀ (ws : List ByteWrite) (m : Memory), (writtenBy plat ws m).byte q = m.byte q
  | [], _ => rfl
  | w :: ws, m => by
    rw [writtenBy, writtenBy_byte_kind plat hq ws]
    split
    · rename_i h
      exact Memory.byte_setByte_ne m (fun e => hq (by rw [e]; exact h)) w.value
    · rfl

theorem wf_writtenBy (plat : Config.Platform) :
    ∀ (ws : List ByteWrite) {m : Memory}, m.wf = true → (writtenBy plat ws m).wf = true
  | [], _, h => h
  | w :: ws, m, h => wf_writtenBy plat ws (by split; exacts [Memory.wf_setByte h _ _, h])

theorem inSpace_writtenBy (plat : Config.Platform) :
    ∀ (ws : List ByteWrite) {m : Memory}, m.inSpace = true → (writtenBy plat ws m).inSpace = true
  | [], _, h => h
  | w :: ws, m, h => inSpace_writtenBy plat ws (by split; exacts [Memory.inSpace_setByte w.address.isLt h _, h])

/-- Bytes written in two lots are written one after another. -/
theorem writtenBy_append (plat : Config.Platform) :
    ∀ (xs ys : List ByteWrite) (m : Memory), writtenBy plat (xs ++ ys) m = writtenBy plat ys (writtenBy plat xs m)
  | [], _, _ => rfl
  | _ :: xs, ys, _ => writtenBy_append plat xs ys _

/-- What another agent's writes leave, byte by byte. -/
theorem writtenBy_bytes (plat : Config.Platform) (ws : List ByteWrite) (m : Memory) :
    BytesWritten plat ws m (writtenBy plat ws m) := by
  refine ⟨fun q h => h.elim (writtenBy_byte_ne plat ws m) fun hk => writtenBy_byte_kind plat hk ws m, ?_⟩
  rintro first w rest rfl hr hk
  rw [writtenBy_append, writtenBy, if_pos hk,
    writtenBy_byte_ne plat rest _ fun x hx e => hr x hx (BitVec.eq_of_toNat_eq e), Memory.byte_setByte_same]

@[simp] theorem State.turn_plat (s : State) : s.turn.plat = s.plat := rfl
@[simp] theorem State.turn_wp (s : State) : s.turn.wp = s.wp := rfl
@[simp] theorem State.turn_pc (s : State) : s.turn.pc = s.pc := rfl
@[simp] theorem State.turn_st (s : State) : s.turn.st = s.st := rfl
@[simp] theorem State.turn_map0 (s : State) : s.turn.map0 = s.map0 := rfl
@[simp] theorem State.turn_map1 (s : State) : s.turn.map1 = s.map1 := rfl
@[simp] theorem State.turn_map2 (s : State) : s.turn.map2 = s.map2 := rfl
@[simp] theorem State.turn_ld (s : State) : s.turn.ld = s.ld := rfl
@[simp] theorem State.turn_irq (s : State) : s.turn.irq = s.irq := rfl
@[simp] theorem State.turn_clk (s : State) : s.turn.clk = s.clk := rfl
@[simp] theorem State.turn_err (s : State) : s.turn.err = s.err := rfl
@[simp] theorem State.turn_idle (s : State) : s.turn.idle = s.idle := rfl
@[simp] theorem State.turn_clken (s : State) : s.turn.clken = s.clken := rfl
@[simp] theorem State.turn_irqEnv (s : State) : s.turn.irqEnv = s.irqEnv := rfl
@[simp] theorem State.turn_dmaEnv (s : State) : s.turn.dmaEnv = s.dmaEnv.tail := rfl
@[simp] theorem State.turn_events (s : State) : s.turn.events = s.events := rfl
@[simp] theorem State.turn_draws (s : State) : s.turn.draws = s.draws := rfl

@[simp] theorem State.turn_setWp (s : State) (v : Word) : (s.setWp v).turn = s.turn.setWp v := rfl
@[simp] theorem State.turn_setPc (s : State) (v : Word) : (s.setPc v).turn = s.turn.setPc v := rfl
@[simp] theorem State.turn_setSt (s : State) (v : Word) : (s.setSt v).turn = s.turn.setSt v := rfl
@[simp] theorem State.turn_setLd (s : State) (v : LongDistance) : (s.setLd v).turn = s.turn.setLd v := rfl
@[simp] theorem State.turn_setMap0 (s : State) (v : MapFile) : (s.setMap0 v).turn = s.turn.setMap0 v := rfl
@[simp] theorem State.turn_setMap1 (s : State) (v : MapFile) : (s.setMap1 v).turn = s.turn.setMap1 v := rfl
@[simp] theorem State.turn_setMap2 (s : State) (v : MapFile) : (s.setMap2 v).turn = s.turn.setMap2 v := rfl
@[simp] theorem State.turn_setErr (s : State) (v : Bool) : (s.setErr v).turn = s.turn.setErr v := rfl
@[simp] theorem State.turn_setIdle (s : State) (v : Bool) : (s.setIdle v).turn = s.turn.setIdle v := rfl
@[simp] theorem State.turn_setClken (s : State) (v : Bool) : (s.setClken v).turn = s.turn.setClken v := rfl
@[simp] theorem State.turn_setEvents (s : State) (v : List Event) : (s.setEvents v).turn = s.turn.setEvents v := rfl
@[simp] theorem State.turn_setDraws (s : State) (v : Nat) : (s.setDraws v).turn = s.turn.setDraws v := rfl

/-- An environment with no more turns changes nothing. -/
theorem State.turn_eq_self {s : State} (h : s.dmaEnv = []) : s.turn = s := by
  cases s
  cases h
  rfl

/-- A turn leaves the bytes the environment does not write. -/
theorem State.Quiet.turn_byte {s : State} {q : Nat} (h : s.Quiet q) : s.turn.mem.byte q = s.mem.byte q := by
  refine writtenBy_byte_ne s.plat _ s.mem fun w hw => ?_
  cases hd : s.dmaEnv with
  | nil => rw [hd] at hw; cases hw
  | cons t rest => rw [hd] at hw; exact h t (hd ▸ .head _) w hw

/-- What no coming turn writes, none of the turns left writes. -/
theorem State.Quiet.suffix {s t : State} {q : Nat} (h : s.Quiet q) (ht : t.dmaEnv <:+ s.dmaEnv) : t.Quiet q :=
  fun turn hm => h turn (ht.subset hm)

theorem State.Quiet.turn {s : State} {q : Nat} (h : s.Quiet q) : s.turn.Quiet q := h.suffix (List.tail_suffix _)

/-- A turn moves no place. -/
@[simp] theorem place_turn (s : State) (f : MapNo) (a : Word) : place s.turn f a = place s f a := by
  cases f <;> rfl

/-! ## What a store leaves -/

/-- A word store answers exactly when its place exists, and this is all it does. -/
theorem writeWord_apply (f : MapNo) (a v : Word) (s : State) :
    writeWord f a v s = (place s f (evenAddress a)).map fun kp => ((), storedWord kp.1 kp.2 v s) := by
  unfold writeWord access storedWord
  dsimp only
  rw [place_turn]
  cases place s f (evenAddress a) with
  | error e => rfl
  | ok kp => obtain ⟨k, p⟩ := kp; cases k <;> rfl

/-- A byte store answers exactly when its place exists, and this is all it does. -/
theorem writeByte_apply (f : MapNo) (a : Word) (v : Byte) (s : State) :
    writeByte f a v s = (place s f a).map fun kp => ((), storedByte kp.1 kp.2 v s) := by
  unfold writeByte access storedByte
  dsimp only
  rw [place_turn]
  cases place s f a with
  | error e => rfl
  | ok kp => obtain ⟨k, p⟩ := kp; cases k <;> rfl

theorem writeWord_ok {f : MapNo} {a : Word} {s : State} {k : Config.RegionKind} {p : Nat}
    (h : place s f (evenAddress a) = .ok (k, p)) (v : Word) :
    writeWord f a v s = .ok ((), storedWord k p v s) := by
  rw [writeWord_apply, h]; rfl

theorem writeByte_ok {f : MapNo} {a : Word} {s : State} {k : Config.RegionKind} {p : Nat}
    (h : place s f a = .ok (k, p)) (v : Byte) : writeByte f a v s = .ok ((), storedByte k p v s) := by
  rw [writeByte_apply, h]; rfl

@[simp] theorem storedWord_plat (k p v) (s : State) : (storedWord k p v s).plat = s.plat := by cases k <;> rfl
@[simp] theorem storedWord_wp (k p v) (s : State) : (storedWord k p v s).wp = s.wp := by cases k <;> rfl
@[simp] theorem storedWord_pc (k p v) (s : State) : (storedWord k p v s).pc = s.pc := by cases k <;> rfl
@[simp] theorem storedWord_st (k p v) (s : State) : (storedWord k p v s).st = s.st := by cases k <;> rfl
@[simp] theorem storedWord_map0 (k p v) (s : State) : (storedWord k p v s).map0 = s.map0 := by cases k <;> rfl
@[simp] theorem storedWord_map1 (k p v) (s : State) : (storedWord k p v s).map1 = s.map1 := by cases k <;> rfl
@[simp] theorem storedWord_map2 (k p v) (s : State) : (storedWord k p v s).map2 = s.map2 := by cases k <;> rfl
@[simp] theorem storedWord_ld (k p v) (s : State) : (storedWord k p v s).ld = s.ld := by cases k <;> rfl
@[simp] theorem storedWord_irq (k p v) (s : State) : (storedWord k p v s).irq = s.irq := by cases k <;> rfl
@[simp] theorem storedWord_clk (k p v) (s : State) : (storedWord k p v s).clk = s.clk := by cases k <;> rfl
@[simp] theorem storedWord_err (k p v) (s : State) : (storedWord k p v s).err = s.err := by cases k <;> rfl
@[simp] theorem storedWord_idle (k p v) (s : State) : (storedWord k p v s).idle = s.idle := by cases k <;> rfl
@[simp] theorem storedWord_clken (k p v) (s : State) : (storedWord k p v s).clken = s.clken := by cases k <;> rfl
@[simp] theorem storedWord_irqEnv (k p v) (s : State) : (storedWord k p v s).irqEnv = s.irqEnv := by cases k <;> rfl
@[simp] theorem storedWord_dmaEnv (k p v) (s : State) : (storedWord k p v s).dmaEnv = s.dmaEnv.tail := by cases k <;> rfl
@[simp] theorem storedWord_draws (k p v) (s : State) : (storedWord k p v s).draws = s.draws := by cases k <;> rfl

@[simp] theorem storedByte_plat (k p v) (s : State) : (storedByte k p v s).plat = s.plat := by cases k <;> rfl
@[simp] theorem storedByte_wp (k p v) (s : State) : (storedByte k p v s).wp = s.wp := by cases k <;> rfl
@[simp] theorem storedByte_pc (k p v) (s : State) : (storedByte k p v s).pc = s.pc := by cases k <;> rfl
@[simp] theorem storedByte_st (k p v) (s : State) : (storedByte k p v s).st = s.st := by cases k <;> rfl
@[simp] theorem storedByte_map0 (k p v) (s : State) : (storedByte k p v s).map0 = s.map0 := by cases k <;> rfl
@[simp] theorem storedByte_map1 (k p v) (s : State) : (storedByte k p v s).map1 = s.map1 := by cases k <;> rfl
@[simp] theorem storedByte_map2 (k p v) (s : State) : (storedByte k p v s).map2 = s.map2 := by cases k <;> rfl
@[simp] theorem storedByte_ld (k p v) (s : State) : (storedByte k p v s).ld = s.ld := by cases k <;> rfl
@[simp] theorem storedByte_irq (k p v) (s : State) : (storedByte k p v s).irq = s.irq := by cases k <;> rfl
@[simp] theorem storedByte_clk (k p v) (s : State) : (storedByte k p v s).clk = s.clk := by cases k <;> rfl
@[simp] theorem storedByte_err (k p v) (s : State) : (storedByte k p v s).err = s.err := by cases k <;> rfl
@[simp] theorem storedByte_idle (k p v) (s : State) : (storedByte k p v s).idle = s.idle := by cases k <;> rfl
@[simp] theorem storedByte_clken (k p v) (s : State) : (storedByte k p v s).clken = s.clken := by cases k <;> rfl
@[simp] theorem storedByte_irqEnv (k p v) (s : State) : (storedByte k p v s).irqEnv = s.irqEnv := by cases k <;> rfl
@[simp] theorem storedByte_dmaEnv (k p v) (s : State) : (storedByte k p v s).dmaEnv = s.dmaEnv.tail := by cases k <;> rfl
@[simp] theorem storedByte_draws (k p v) (s : State) : (storedByte k p v s).draws = s.draws := by cases k <;> rfl

/-- A word store stores its word and touches no other byte. -/
theorem storedWord_stored (k : Config.RegionKind) (p : Nat) (v : Word) (s : State) :
    WordStored k p v s.turn (storedWord k p v s) := by
  refine ⟨fun q h h' => ?_, ?_⟩
  · cases k
    · exact Memory.byte_setWord_ne s.turn.mem h h' v
    · rfl
    · rfl
  · cases k
    · exact ⟨Memory.word_setWord_same s.turn.mem p v, rfl⟩
    · exact ⟨rfl, rfl⟩
    · exact ⟨rfl, rfl⟩

/-- A byte store stores its byte and touches no other. -/
theorem storedByte_stored (k : Config.RegionKind) (p : Nat) (v : Byte) (s : State) :
    ByteStored k p v s.turn (storedByte k p v s) := by
  refine ⟨fun q h => ?_, ?_⟩
  · cases k
    · exact Memory.byte_setByte_ne s.turn.mem h v
    · rfl
    · rfl
  · cases k
    · exact ⟨Memory.byte_setByte_same s.turn.mem p v, rfl⟩
    · exact ⟨rfl, rfl⟩
    · exact ⟨rfl, rfl⟩

/-- A word store leaves the other bytes that the environment does not write. -/
theorem storedWord_byte_ne {k : Config.RegionKind} {p : Nat} {v : Word} {s : State} {q : Nat} (h : q ≠ p) (h' : q ≠ p + 1)
    (hq : s.Quiet q) : (storedWord k p v s).mem.byte q = s.mem.byte q :=
  ((storedWord_stored k p v s).1 q h h').trans hq.turn_byte

theorem storedByte_byte_ne {k : Config.RegionKind} {p : Nat} {v : Byte} {s : State} {q : Nat} (h : q ≠ p)
    (hq : s.Quiet q) : (storedByte k p v s).mem.byte q = s.mem.byte q :=
  ((storedByte_stored k p v s).1 q h).trans hq.turn_byte

theorem State.Quiet.storedWord {s : State} {q : Nat} (h : s.Quiet q) (k : Config.RegionKind) (p : Nat) (v : Word) :
    (storedWord k p v s).Quiet q := h.suffix (by rw [storedWord_dmaEnv]; exact List.tail_suffix _)

theorem State.Quiet.storedByte {s : State} {q : Nat} (h : s.Quiet q) (k : Config.RegionKind) (p : Nat) (v : Byte) :
    (storedByte k p v s).Quiet q := h.suffix (by rw [storedByte_dmaEnv]; exact List.tail_suffix _)

/-! ## What a read answers and leaves -/

/-- What a word read at physical address p of kind k answers, after the environment's turn. -/
def wordAt (k : Config.RegionKind) (p : Nat) (s : State) : Word :=
  match k with
  | .device => Config.deviceWord s.draws p
  | _ => s.turn.mem.word p

/-- The state after the environment's turn and a word read: a device register's read draws a free value and is an event. -/
def afterWordRead (k : Config.RegionKind) (p : Nat) (s : State) : State :=
  match k with
  | .device => (s.turn.setDraws (s.draws + 1)).emit (.deviceReadWord p (Config.deviceWord s.draws p))
  | _ => s.turn

/-- What a byte read at physical address p of kind k answers, after the environment's turn. -/
def byteAt (k : Config.RegionKind) (p : Nat) (s : State) : Byte :=
  match k with
  | .device => Config.deviceByte s.draws p
  | _ => s.turn.mem.byte p

/-- The state after the environment's turn and a byte read. -/
def afterByteRead (k : Config.RegionKind) (p : Nat) (s : State) : State :=
  match k with
  | .device => (s.turn.setDraws (s.draws + 1)).emit (.deviceReadByte p (Config.deviceByte s.draws p))
  | _ => s.turn

/-- A word read answers exactly when its place exists, and this is all it does. -/
theorem readWord_apply (f : MapNo) (a : Word) (s : State) :
    readWord f a s = (place s f (evenAddress a)).map fun kp => (wordAt kp.1 kp.2 s, afterWordRead kp.1 kp.2 s) := by
  unfold readWord access wordAt afterWordRead
  dsimp only
  rw [place_turn]
  cases place s f (evenAddress a) with
  | error e => rfl
  | ok kp => obtain ⟨k, p⟩ := kp; cases k <;> rfl

/-- A byte read answers exactly when its place exists, and this is all it does. -/
theorem readByte_apply (f : MapNo) (a : Word) (s : State) :
    readByte f a s = (place s f a).map fun kp => (byteAt kp.1 kp.2 s, afterByteRead kp.1 kp.2 s) := by
  unfold readByte access byteAt afterByteRead
  dsimp only
  rw [place_turn]
  cases place s f a with
  | error e => rfl
  | ok kp => obtain ⟨k, p⟩ := kp; cases k <;> rfl

/-- A RAM or ROM word is read as it stands after the environment's turn, and nothing else changes. -/
theorem HoldsWord.read {s : State} {f : MapNo} {a v : Word} (h : HoldsWord s.turn f a v) :
    readWord f a s = .ok (v, s.turn) := by
  obtain ⟨k, p, hp, hk, hv⟩ := h
  rw [place_turn] at hp
  rw [readWord_apply, hp]
  cases k
  · subst hv; rfl
  · subst hv; rfl
  · exact absurd rfl hk

/-- A RAM or ROM byte is read as it stands after the environment's turn, and nothing else changes. -/
theorem HoldsByte.read {s : State} {f : MapNo} {a : Word} {v : Byte} (h : HoldsByte s.turn f a v) :
    readByte f a s = .ok (v, s.turn) := by
  obtain ⟨k, p, hp, hk, hv⟩ := h
  rw [place_turn] at hp
  rw [readByte_apply, hp]
  cases k
  · subst hv; rfl
  · subst hv; rfl
  · exact absurd rfl hk

/-! ## What a place depends on -/

/-- Two states that agree on the platform and the map files place an access alike. -/
theorem place_congr {s t : State} (hp : t.plat = s.plat) (h0 : t.map0 = s.map0) (h1 : t.map1 = s.map1)
    (h2 : t.map2 = s.map2) (f : MapNo) (a : Word) : place t f a = place s f a := by
  have hm : t.mapFile f = s.mapFile f := by cases f <;> assumption
  unfold place physical
  rw [hp, hm]

/-! ## The end of an instruction -/

/-- A body that answers ends the instruction with the latch `none`. -/
theorem complete_ok {body : Op Unit} {s t : State} (h : body s = .ok ((), t)) : complete body s = .next (t.setLd .none) := by
  unfold complete completeLatching
  rw [Op.bind_ok h]
  rfl

/-- An instruction that answers ran its body. -/
theorem complete_eq_next {body : Op Unit} {s t : State} :
    complete body s = .next t ↔ ∃ u, body s = .ok ((), u) ∧ t = u.setLd .none := by
  constructor
  · intro e
    cases hb : body s with
    | error x =>
      unfold complete completeLatching at e
      rw [Op.bind_error hb] at e
      cases x <;> cases e
    | ok p =>
      obtain ⟨⟨⟩, u⟩ := p
      rw [complete_ok hb] at e
      cases e
      exact ⟨u, rfl, rfl⟩
  · rintro ⟨u, hb, rfl⟩
    exact complete_ok hb

end Sys2Proof.Machine
end

