-- ==== Sys2Proof/Laws/Operands.lean ====
section
/-! SUPPORT. What each shape of instruction does when its operands are answered: one lemma per shape. -/

namespace Sys2Proof.Machine

theorem binaryWord_ok {gs gd : GenAddr} {s s1 s2 : State} {sl dl : Loc} {src dst : Word} {kind : Config.RegionKind} {p : Nat}
    (h1 : operandWord .src gs s = .ok ((sl, src), s1)) (h2 : operandWord .dst gd s1 = .ok ((dl, dst), s2))
    (h3 : place s2 dl.file (evenAddress dl.addr) = .ok (kind, p)) (k : Word → Word → Computed 16) :
    binaryWord gs gd k s =
      .ok ((), (storedWord kind p (k src dst).value s2).setSt ((k src dst).status s2.st)) := by
  unfold binaryWord
  rw [Op.bind_ok h1]
  dsimp only
  rw [Op.bind_ok h2]
  dsimp only
  rw [Op.bind_ok (writeWord_ok h3 _), setStatus_apply, storedWord_st]

theorem binaryByte_ok {gs gd : GenAddr} {s s1 s2 : State} {sl dl : Loc} {src dst : Byte} {kind : Config.RegionKind} {p : Nat}
    (h1 : operandByte .src gs s = .ok ((sl, src), s1)) (h2 : operandByte .dst gd s1 = .ok ((dl, dst), s2))
    (h3 : place s2 dl.file dl.addr = .ok (kind, p)) (k : Byte → Byte → Computed 8) :
    binaryByte gs gd k s =
      .ok ((), (storedByte kind p (k src dst).value s2).setSt ((k src dst).status s2.st)) := by
  unfold binaryByte
  rw [Op.bind_ok h1]
  dsimp only
  rw [Op.bind_ok h2]
  dsimp only
  rw [Op.bind_ok (writeByte_ok h3 _), setStatus_apply, storedByte_st]

theorem copyWord_ok {gs gd : GenAddr} {s s1 s2 : State} {sl dl : Loc} {src : Word} {kind : Config.RegionKind} {p : Nat}
    (h1 : operandWord .src gs s = .ok ((sl, src), s1)) (h2 : operandAddress .dst .word gd s1 = .ok (dl, s2))
    (h3 : place s2 dl.file (evenAddress dl.addr) = .ok (kind, p)) :
    copyWord gs gd s = .ok ((), (storedWord kind p src s2).setSt (compareToZero src s2.st)) := by
  unfold copyWord
  rw [Op.bind_ok h1]
  dsimp only
  rw [Op.bind_ok h2, Op.bind_ok (writeWord_ok h3 _), setStatus_apply, storedWord_st]
  rfl

theorem copyByte_ok {gs gd : GenAddr} {s s1 s2 : State} {sl dl : Loc} {src : Byte} {kind : Config.RegionKind} {p : Nat}
    (h1 : operandByte .src gs s = .ok ((sl, src), s1)) (h2 : operandAddress .dst .byte gd s1 = .ok (dl, s2))
    (h3 : place s2 dl.file dl.addr = .ok (kind, p)) :
    copyByte gs gd s = .ok ((), (storedByte kind p src s2).setSt ((Computed.logicalByte src).status s2.st)) := by
  unfold copyByte
  rw [Op.bind_ok h1]
  dsimp only
  rw [Op.bind_ok h2, Op.bind_ok (writeByte_ok h3 _), setStatus_apply, storedByte_st]

theorem inspectWords_ok {gs gd : GenAddr} {s s1 s2 : State} {sl dl : Loc} {src dst : Word}
    (h1 : operandWord .src gs s = .ok ((sl, src), s1)) (h2 : operandWord .dst gd s1 = .ok ((dl, dst), s2))
    (k : Word → Word → Word → Word) : inspectWords gs gd k s = .ok ((), s2.setSt (k src dst s2.st)) := by
  unfold inspectWords
  rw [Op.bind_ok h1]
  dsimp only
  rw [Op.bind_ok h2, setStatus_apply]

theorem inspectBytes_ok {gs gd : GenAddr} {s s1 s2 : State} {sl dl : Loc} {src dst : Byte}
    (h1 : operandByte .src gs s = .ok ((sl, src), s1)) (h2 : operandByte .dst gd s1 = .ok ((dl, dst), s2))
    (k : Byte → Byte → Word → Word) : inspectBytes gs gd k s = .ok ((), s2.setSt (k src dst s2.st)) := by
  unfold inspectBytes
  rw [Op.bind_ok h1]
  dsimp only
  rw [Op.bind_ok h2, setStatus_apply]

theorem modifyWord_ok {g : GenAddr} {s s1 : State} {sl : Loc} {a : Word} {kind : Config.RegionKind} {p : Nat}
    (h1 : operandWord .src g s = .ok ((sl, a), s1)) (h2 : place s1 sl.file (evenAddress sl.addr) = .ok (kind, p))
    (k : Word → Computed 16) :
    modifyWord g k s = .ok ((), (storedWord kind p (k a).value s1).setSt ((k a).status s1.st)) := by
  unfold modifyWord
  rw [Op.bind_ok h1]
  dsimp only
  rw [Op.bind_ok (writeWord_ok h2 _), setStatus_apply, storedWord_st]

theorem fillWord_ok {g : GenAddr} {s s1 : State} {sl : Loc} {kind : Config.RegionKind} {p : Nat}
    (h1 : operandAddress .src .word g s = .ok (sl, s1)) (h2 : place s1 sl.file (evenAddress sl.addr) = .ok (kind, p))
    (v : Word) : fillWord g v s = .ok ((), storedWord kind p v s1) := by
  unfold fillWord
  rw [Op.bind_ok h1, writeWord_ok h2]

/-- Storing a register stores a word at the register's address. -/
theorem writeReg_ok {r : Reg} {s : State} {kind : Config.RegionKind} {p : Nat}
    (h : place s (currentMap s) (evenAddress (regAddress s r)) = .ok (kind, p)) (v : Word) :
    writeReg r v s = .ok ((), storedWord kind p v s) := writeWord_ok h v

theorem immediateResult_ok {w : Reg} {s s1 s2 : State} {iop a : Word} {kind : Config.RegionKind} {p : Nat}
    (h1 : fetch s = .ok (iop, s1)) (h2 : readReg w s1 = .ok (a, s2))
    (h3 : place s2 (currentMap s2) (evenAddress (regAddress s2 w)) = .ok (kind, p)) (k : Word → Word → Computed 16) :
    immediateResult w k s = .ok ((), (storedWord kind p (k a iop).value s2).setSt ((k a iop).status s2.st)) := by
  unfold immediateResult
  rw [Op.bind_ok h1, Op.bind_ok h2, Op.bind_ok (writeReg_ok h3 _), setStatus_apply, storedWord_st]

theorem inspectRegister_ok {g : GenAddr} {d : Reg} {s s1 s2 : State} {sl : Loc} {src x : Word}
    (h1 : operandWord .src g s = .ok ((sl, src), s1)) (h2 : readReg d s1 = .ok (x, s2)) (k : Word → Word → Word → Word) :
    inspectRegister g d k s = .ok ((), s2.setSt (k src x s2.st)) := by
  unfold inspectRegister
  rw [Op.bind_ok h1]
  dsimp only
  rw [Op.bind_ok h2, setStatus_apply]

theorem shiftRegister_ok {w : Reg} {c : BitVec 4} {s s1 s2 : State} {n : Nat} {a : Word} {kind : Config.RegionKind} {p : Nat}
    (h1 : shiftCount c s = .ok (n, s1)) (h2 : readReg w s1 = .ok (a, s2))
    (h3 : place s2 (currentMap s2) (evenAddress (regAddress s2 w)) = .ok (kind, p)) (k : Word → Nat → Computed 16) :
    shiftRegister w c k s = .ok ((), (storedWord kind p (k a n).value s2).setSt ((k a n).status s2.st)) := by
  unfold shiftRegister
  rw [Op.bind_ok h1, Op.bind_ok h2, Op.bind_ok (writeReg_ok h3 _), setStatus_apply, storedWord_st]

/-- A jump always answers: PC moves when the condition holds, and nothing else changes (42_branch.md R165). -/
theorem jumpIf_apply (cond : Word → Bool) (disp : BitVec 8) (s : State) :
    jumpIf cond disp s = .ok ((), if cond s.st then s.jump (s.pc + 2 * disp.signExtend 16) else s) := rfl

/-- In non-privileged state a privileged body is the error interrupt. -/
theorem whenPrivileged_of_unprivileged {s : State} (h : unprivileged s = true) (n : Nat) (body : Op Unit) :
    whenPrivileged n body s = .ok ((), (s.jump (s.pc + BitVec.ofNat 16 (2 * n))).setErr true) := by
  unfold whenPrivileged
  rw [if_pos h]
  rfl

/-- In privileged state a privileged body runs. -/
theorem whenPrivileged_of_privileged {s : State} (h : unprivileged s = false) (n : Nat) (body : Op Unit) :
    whenPrivileged n body s = body s := by
  unfold whenPrivileged
  rw [if_neg (by simp [h])]

/-! ## Status of a computed result -/

/-- The sum's status writes LGT, AGT, EQ, C and OV. -/
theorem arithmetic_written {w : Nat} (x : Sum w) (st : Word) :
    StatusWritten st ((Computed.arithmetic x).status st) (zeroFields x.value ++ [(.c, x.carry), (.ov, x.overflow)]) := by
  refine (((compareToZero_written x.value st).cons .c _ ?_).cons .ov _ ?_).perm ?_
  · simp [zeroFields]
  · simp [zeroFields]
  · intro y; simp only [zeroFields, List.mem_append, List.mem_cons, List.not_mem_nil, or_false]; tauto

/-- The byte sum's status writes LGT, AGT, EQ, C, OV and OP. -/
theorem arithmeticByte_written (x : Sum 8) (st : Word) :
    StatusWritten st ((Computed.arithmeticByte x).status st)
      (zeroFields x.value ++ [(.c, x.carry), (.ov, x.overflow), parityField x.value]) := by
  rw [← oddParity_eq]
  refine ((arithmetic_written x st).cons .op _ ?_).perm ?_
  · simp [zeroFields]
  · intro y; simp only [zeroFields, List.mem_append, List.mem_cons, List.not_mem_nil, or_false]; tauto

/-- A byte result's status writes LGT, AGT, EQ and OP. -/
theorem logicalByte_written (r : Byte) (st : Word) :
    StatusWritten st ((Computed.logicalByte r).status st) (zeroFields r ++ [parityField r]) := by
  rw [← oddParity_eq]
  refine ((compareToZero_written r st).cons .op _ ?_).perm ?_
  · simp [zeroFields]
  · intro y; simp only [zeroFields, List.mem_append, List.mem_cons, List.not_mem_nil, or_false]; tauto

/-! ## What stays -/

/-- A store, a status change and the end of the instruction keep the context. -/
theorem sameContext_stored (k : Config.RegionKind) (p : Nat) (v st : Word) (s : State) :
    SameContext s.turn (((storedWord k p v s).setSt st).setLd .none) := by
  constructor
  · constructor <;> simp
  · simp
  · simp

theorem sameContext_storedByte (k : Config.RegionKind) (p : Nat) (v : Byte) (st : Word) (s : State) :
    SameContext s.turn (((storedByte k p v s).setSt st).setLd .none) := by
  constructor
  · constructor <;> simp
  · simp
  · simp

theorem sameContext_status (st : Word) (s : State) : SameContext s ((s.setSt st).setLd .none) := by
  constructor
  · constructor <;> simp
  · simp
  · simp

/-- A status change and the end of the instruction leave what a store stored. -/
theorem wordStored_status {k : Config.RegionKind} {p : Nat} {v : Word} {s t : State} (h : WordStored k p v s t) (st : Word) :
    WordStored k p v s ((t.setSt st).setLd .none) := h

theorem byteStored_status {k : Config.RegionKind} {p : Nat} {v : Byte} {s t : State} (h : ByteStored k p v s t) (st : Word) :
    ByteStored k p v s ((t.setSt st).setLd .none) := h

end Sys2Proof.Machine
end

