-- ==== Sys2Proof/Laws/PerInstr.lean ====
section
/-! SUPPORT. The per-instruction family Opcode: the word of an instruction matches its row of the op code map (30_encoding.md
R99). -/

namespace Sys2Proof.Laws.Opcode

open Sys2Proof

/-- An instruction's word, masked, is its op code. -/
def Statement (i : Instr) : Prop := encode i &&& (opcodeRow i).2 = (opcodeRow i).1

theorem li (w : Reg) : Statement (.li w) := (maskedImmediate _ w).trans rfl
theorem ai (w : Reg) : Statement (.ai w) := (maskedImmediate _ w).trans rfl
theorem andi (w : Reg) : Statement (.andi w) := (maskedImmediate _ w).trans rfl
theorem ori (w : Reg) : Statement (.ori w) := (maskedImmediate _ w).trans rfl
theorem ci (w : Reg) : Statement (.ci w) := (maskedImmediate _ w).trans rfl
theorem stwp (w : Reg) : Statement (.stwp w) := (maskedImmediate _ w).trans rfl
theorem stst (w : Reg) : Statement (.stst w) := (maskedImmediate _ w).trans rfl
theorem lwpi : Statement (.lwpi) := rfl
theorem limi : Statement (.limi) := rfl
theorem lmf (m : BitVec 1) (w : Reg) : Statement (.lmf m w) := (maskedControl _ m w).trans rfl
theorem idle : Statement (.idle) := rfl
theorem rset : Statement (.rset) := rfl
theorem rtwp : Statement (.rtwp) := rfl
theorem ckon : Statement (.ckon) := rfl
theorem ckof : Statement (.ckof) := rfl
theorem lrex : Statement (.lrex) := rfl
theorem blwp (g : GenAddr) : Statement (.blwp g) := (maskedOneAddress _ g).trans rfl
theorem b (g : GenAddr) : Statement (.b g) := (maskedOneAddress _ g).trans rfl
theorem x (g : GenAddr) : Statement (.x g) := (maskedOneAddress _ g).trans rfl
theorem clr (g : GenAddr) : Statement (.clr g) := (maskedOneAddress _ g).trans rfl
theorem neg (g : GenAddr) : Statement (.neg g) := (maskedOneAddress _ g).trans rfl
theorem inv (g : GenAddr) : Statement (.inv g) := (maskedOneAddress _ g).trans rfl
theorem inc (g : GenAddr) : Statement (.inc g) := (maskedOneAddress _ g).trans rfl
theorem inct (g : GenAddr) : Statement (.inct g) := (maskedOneAddress _ g).trans rfl
theorem dec (g : GenAddr) : Statement (.dec g) := (maskedOneAddress _ g).trans rfl
theorem dect (g : GenAddr) : Statement (.dect g) := (maskedOneAddress _ g).trans rfl
theorem bl (g : GenAddr) : Statement (.bl g) := (maskedOneAddress _ g).trans rfl
theorem swpb (g : GenAddr) : Statement (.swpb g) := (maskedOneAddress _ g).trans rfl
theorem seto (g : GenAddr) : Statement (.seto g) := (maskedOneAddress _ g).trans rfl
theorem abs (g : GenAddr) : Statement (.abs g) := (maskedOneAddress _ g).trans rfl
theorem lds (g : GenAddr) : Statement (.lds g) := (maskedOneAddress _ g).trans rfl
theorem ldd (g : GenAddr) : Statement (.ldd g) := (maskedOneAddress _ g).trans rfl
theorem sra (w : Reg) (count : BitVec 4) : Statement (.sra w count) := (maskedShift _ w count).trans rfl
theorem srl (w : Reg) (count : BitVec 4) : Statement (.srl w count) := (maskedShift _ w count).trans rfl
theorem sla (w : Reg) (count : BitVec 4) : Statement (.sla w count) := (maskedShift _ w count).trans rfl
theorem src (w : Reg) (count : BitVec 4) : Statement (.src w count) := (maskedShift _ w count).trans rfl
theorem jmp (disp : BitVec 8) : Statement (.jmp disp) := (maskedDisplacement _ disp).trans rfl
theorem jlt (disp : BitVec 8) : Statement (.jlt disp) := (maskedDisplacement _ disp).trans rfl
theorem jle (disp : BitVec 8) : Statement (.jle disp) := (maskedDisplacement _ disp).trans rfl
theorem jeq (disp : BitVec 8) : Statement (.jeq disp) := (maskedDisplacement _ disp).trans rfl
theorem jhe (disp : BitVec 8) : Statement (.jhe disp) := (maskedDisplacement _ disp).trans rfl
theorem jgt (disp : BitVec 8) : Statement (.jgt disp) := (maskedDisplacement _ disp).trans rfl
theorem jne (disp : BitVec 8) : Statement (.jne disp) := (maskedDisplacement _ disp).trans rfl
theorem jnc (disp : BitVec 8) : Statement (.jnc disp) := (maskedDisplacement _ disp).trans rfl
theorem joc (disp : BitVec 8) : Statement (.joc disp) := (maskedDisplacement _ disp).trans rfl
theorem jno (disp : BitVec 8) : Statement (.jno disp) := (maskedDisplacement _ disp).trans rfl
theorem jl (disp : BitVec 8) : Statement (.jl disp) := (maskedDisplacement _ disp).trans rfl
theorem jh (disp : BitVec 8) : Statement (.jh disp) := (maskedDisplacement _ disp).trans rfl
theorem jop (disp : BitVec 8) : Statement (.jop disp) := (maskedDisplacement _ disp).trans rfl
theorem sbo (disp : BitVec 8) : Statement (.sbo disp) := (maskedDisplacement _ disp).trans rfl
theorem sbz (disp : BitVec 8) : Statement (.sbz disp) := (maskedDisplacement _ disp).trans rfl
theorem tb (disp : BitVec 8) : Statement (.tb disp) := (maskedDisplacement _ disp).trans rfl
theorem coc (g : GenAddr) (d : Reg) : Statement (.coc g d) := (maskedAddressAndField _ g d).trans rfl
theorem czc (g : GenAddr) (d : Reg) : Statement (.czc g d) := (maskedAddressAndField _ g d).trans rfl
theorem xor (g : GenAddr) (d : Reg) : Statement (.xor g d) := (maskedAddressAndField _ g d).trans rfl
theorem xop (g : GenAddr) (n : BitVec 4) : Statement (.xop g n) := (maskedAddressAndField _ g n).trans rfl
theorem ldcr (g : GenAddr) (count : BitVec 4) : Statement (.ldcr g count) :=
  (maskedAddressAndField _ g count).trans rfl
theorem stcr (g : GenAddr) (count : BitVec 4) : Statement (.stcr g count) :=
  (maskedAddressAndField _ g count).trans rfl
theorem mpy (g : GenAddr) (d : Reg) : Statement (.mpy g d) := (maskedAddressAndField _ g d).trans rfl
theorem div (g : GenAddr) (d : Reg) : Statement (.div g d) := (maskedAddressAndField _ g d).trans rfl
theorem szc (gs : GenAddr) (gd : GenAddr) : Statement (.szc gs gd) := (maskedTwoAddress _ gs gd).trans rfl
theorem szcb (gs : GenAddr) (gd : GenAddr) : Statement (.szcb gs gd) := (maskedTwoAddress _ gs gd).trans rfl
theorem s (gs : GenAddr) (gd : GenAddr) : Statement (.s gs gd) := (maskedTwoAddress _ gs gd).trans rfl
theorem sb (gs : GenAddr) (gd : GenAddr) : Statement (.sb gs gd) := (maskedTwoAddress _ gs gd).trans rfl
theorem c (gs : GenAddr) (gd : GenAddr) : Statement (.c gs gd) := (maskedTwoAddress _ gs gd).trans rfl
theorem cb (gs : GenAddr) (gd : GenAddr) : Statement (.cb gs gd) := (maskedTwoAddress _ gs gd).trans rfl
theorem a (gs : GenAddr) (gd : GenAddr) : Statement (.a gs gd) := (maskedTwoAddress _ gs gd).trans rfl
theorem ab (gs : GenAddr) (gd : GenAddr) : Statement (.ab gs gd) := (maskedTwoAddress _ gs gd).trans rfl
theorem mov (gs : GenAddr) (gd : GenAddr) : Statement (.mov gs gd) := (maskedTwoAddress _ gs gd).trans rfl
theorem movb (gs : GenAddr) (gd : GenAddr) : Statement (.movb gs gd) := (maskedTwoAddress _ gs gd).trans rfl
theorem soc (gs : GenAddr) (gd : GenAddr) : Statement (.soc gs gd) := (maskedTwoAddress _ gs gd).trans rfl
theorem socb (gs : GenAddr) (gd : GenAddr) : Statement (.socb gs gd) := (maskedTwoAddress _ gs gd).trans rfl

end Sys2Proof.Laws.Opcode
end

