-- ==== Sys2Proof/Laws/Places.lean ====
section
/-! SUPPORT. Addresses in numbers: even addresses, the physical address, and the two bytes of a word (20_memory.md R51, R55, R57,
R66). -/

namespace Sys2Proof.Machine

/-- An even address has the low bit 0 and every other bit of the address. -/
theorem evenAddress_getLsbD (a : Word) (i : Nat) : (evenAddress a).getLsbD i = (a.getLsbD i && decide (i ≠ 0)) := by
  unfold evenAddress
  by_cases h : i < 16
  · have hc : ∀ j : Fin 16, (0xFFFE : Word).getLsbD j.val = decide (j.val ≠ 0) := by decide
    rw [BitVec.getLsbD_and, hc ⟨i, h⟩]
  · rw [BitVec.getLsbD_of_ge _ i (by omega), BitVec.getLsbD_of_ge a i (by omega)]
    rfl

theorem evenAddress_low (a : Word) : (evenAddress a).getLsbD 0 = false := by
  rw [evenAddress_getLsbD]; simp

theorem evenAddress_toNat (a : Word) : (evenAddress a).toNat = a.toNat - a.toNat % 2 := by
  have h : evenAddress a = (a >>> 1) <<< 1 := by
    apply BitVec.eq_of_getLsbD_eq
    intro i hi
    rw [evenAddress_getLsbD, BitVec.getLsbD_shiftLeft, BitVec.getLsbD_ushiftRight]
    rcases i with _ | i
    · simp
    · simp [show 1 + i = i + 1 by omega, hi]
  rw [h, BitVec.toNat_shiftLeft, BitVec.toNat_ushiftRight, Nat.shiftLeft_eq, Nat.shiftRight_eq_div_pow]
  have := a.isLt
  omega

/-- Setting the low bit of an even address adds one. -/
theorem toNat_or_one {a : Word} (h : a.getLsbD 0 = false) : (a ||| 1).toNat = a.toNat + 1 := by
  have h' : a.toNat % 2 = 0 := by
    rw [BitVec.getLsbD, Nat.testBit_zero] at h
    simpa using h
  rw [BitVec.toNat_or]
  show a.toNat ||| 1 = _
  apply Nat.eq_of_testBit_eq
  intro i
  rw [Nat.testBit_or]
  cases i with
  | zero => simp [Nat.testBit_zero]; omega
  | succ n => simp [Nat.testBit_succ]; rw [show (a.toNat + 1) / 2 = a.toNat / 2 by omega]

/-- The physical address in numbers (20_memory.md R66). -/
theorem biased_toNat (b a : Word) : biased b a = (32 * b.toNat + a.toNat) % 2 ^ 21 := by
  unfold biased
  rw [BitVec.toNat_add, BitVec.toNat_shiftLeft, BitVec.toNat_setWidth, BitVec.toNat_setWidth, Nat.shiftLeft_eq]
  have := a.isLt
  have := b.isLt
  omega

/-- The low bit of an address is inside a granule. -/
theorem bias_or_one (m : MapFile) (a : Word) : m.bias (a ||| 1) = m.bias a := by
  have h : (a ||| 1).extractLsb' 5 11 = a.extractLsb' 5 11 := by
    apply BitVec.eq_of_getLsbD_eq
    intro i _
    have h1 : (1 : Word).getLsbD (5 + i) = false := by
      show (1#16).getLsbD (5 + i) = false
      rw [BitVec.getLsbD_one]; simp
    rw [BitVec.getLsbD_extractLsb', BitVec.getLsbD_extractLsb', BitVec.getLsbD_or, h1, Bool.or_false]
  unfold MapFile.bias
  simp only [h]

/-- The second byte of a word follows the first. -/
theorem physical_or_one {s : State} {f : MapNo} {a : Word} {p : Nat} (ha : a.getLsbD 0 = false)
    (h : physical s f a = .ok p) : physical s f (a ||| 1) = .ok (p + 1) := by
  unfold physical at h ⊢
  split
  · rename_i hm
    rw [if_pos hm] at h
    rw [bias_or_one]
    cases hb : (s.mapFile f).bias a with
    | none => rw [hb] at h; cases h
    | some b =>
      rw [hb] at h
      cases h
      have h' : a.toNat % 2 = 0 := by
        rw [BitVec.getLsbD, Nat.testBit_zero] at ha
        simpa using ha
      show Except.ok (biased b (a ||| 1)) = .ok (biased b a + 1)
      rw [biased_toNat, biased_toNat, toNat_or_one ha]
      congr 1
      omega
  · rename_i hm
    rw [if_neg hm] at h
    cases h
    rw [toNat_or_one ha]

/-- Physical addresses are below 2^21 (20_memory.md R51). -/
theorem physical_lt {s : State} {f : MapNo} {a : Word} {p : Nat} (h : physical s f a = .ok p) : p < 0x200000 := by
  unfold physical at h
  split at h
  · split at h
    · cases h; exact BitVec.isLt _
    · cases h
  · cases h
    have := a.isLt
    omega

/-- A place is the physical address of its access, and of its kind. -/
theorem place_physical {s : State} {f : MapNo} {a : Word} {k : Config.RegionKind} {p : Nat}
    (h : place s f a = .ok (k, p)) : physical s f a = .ok p ∧ s.plat.kindAt p = some k := by
  unfold place at h
  cases hp : physical s f a with
  | error e => rw [hp] at h; cases h
  | ok q =>
    rw [hp] at h
    dsimp only at h
    cases hk : s.plat.kindAt q with
    | none => rw [hk] at h; cases h
    | some k' => rw [hk] at h; cases h; exact ⟨rfl, hk⟩

/-- A store moves no place. -/
@[simp] theorem place_storedWord (k p v) (s : State) (f : MapNo) (a : Word) :
    place (storedWord k p v s) f a = place s f a :=
  place_congr (by simp) (by simp) (by simp) (by simp) f a

@[simp] theorem place_storedByte (k p v) (s : State) (f : MapNo) (a : Word) :
    place (storedByte k p v s) f a = place s f a :=
  place_congr (by simp) (by simp) (by simp) (by simp) f a

end Sys2Proof.Machine
end

