-- ==== Sys2Proof/Laws/Preserve.lean ====
section
/-! SUPPORT. How a property of the state goes through an instruction. `Preserves G x Q` says that from a state with G every answer
of x has Q and leaves a state with G; `Closed` collects what G must stand for every shared operation to preserve it;
below it each operation and each shape of instruction is shown to, once for every G. -/

namespace Sys2Proof.Machine

/-- From a state with G, every answer has Q and leaves a state with G. -/
def Preserves {α : Type} (G : State → Prop) (x : Op α) (Q : α → Prop) : Prop :=
  ∀ s, G s → ∀ a t, x s = .ok (a, t) → G t ∧ Q a

theorem Preserves.bind {α β : Type} {G : State → Prop} {x : Op α} {f : α → Op β} {Q : α → Prop} {Q' : β → Prop}
    (hx : Preserves G x Q) (hf : ∀ a, Q a → Preserves G (f a) Q') : Preserves G (x >>= f) Q' := by
  intro s hs b t h
  obtain ⟨a, u, h1, h2⟩ := Op.bind_eq_ok.mp h
  have := hx s hs a u h1
  exact hf a this.2 u this.1 b t h2

theorem Preserves.weaken {α : Type} {G : State → Prop} {x : Op α} {Q Q' : α → Prop} (hx : Preserves G x Q)
    (h : ∀ a, Q a → Q' a) : Preserves G x Q' :=
  fun s hs a t e => ⟨(hx s hs a t e).1, h a (hx s hs a t e).2⟩

theorem Preserves.pure {α : Type} {G : State → Prop} {Q : α → Prop} {a : α} (h : Q a) : Preserves G (pure a : Op α) Q := by
  intro s hs b t e
  cases e
  exact ⟨hs, h⟩

theorem Preserves.get {G : State → Prop} : Preserves G (get : Op State) G := by
  intro s hs b t e
  cases e
  exact ⟨hs, hs⟩

theorem Preserves.stop {α : Type} {G : State → Prop} {Q : α → Prop} (e : Stop) : Preserves G (Machine.stop e : Op α) Q := by
  intro s _ b t h
  cases h

theorem Preserves.update {G : State → Prop} {f : State → State} (h : ∀ s, G s → G (f s)) :
    Preserves G (Machine.update f) fun _ => True := by
  intro s hs b t e
  cases e
  exact ⟨h s hs, trivial⟩

/-- An operation that looks at the state first. -/
theorem Preserves.ofState {α : Type} {G : State → Prop} {f : State → Op α} {Q : α → Prop}
    (h : ∀ s, G s → Preserves G (f s) Q) : Preserves G (fun s => f s s) Q :=
  fun s hs a t e => h s hs s hs a t e

theorem Preserves.ite {α : Type} {G : State → Prop} {c : Prop} [Decidable c] {x y : Op α} {Q : α → Prop}
    (hx : c → Preserves G x Q) (hy : ¬ c → Preserves G y Q) : Preserves G (if c then x else y) Q := by
  split
  · exact hx ‹_›
  · exact hy ‹_›

/-- What a property must stand: a turn of the environment, reading a device register, recording an event, a new PC or WP, the error latch
set in non-privileged state, a store through one of the given
map files, and a change of ST by one of the given functions. -/
structure Closed (G : State → Prop) (files : MapNo → Prop) (status : (Word → Word) → Prop) : Prop where
  turn    : ∀ s, G s → G s.turn
  draw    : ∀ s e, G s → G ((s.setDraws (s.draws + 1)).emit e)
  emit    : ∀ s e, G s → G (s.emit e)
  jump    : ∀ s a, G s → G (s.jump a)
  trap    : ∀ s, G s → unprivileged s = true → G (s.setErr true)
  setWp   : ∀ s a, G s → G (s.setWp a)
  word    : ∀ s f a k p v, G s → files f → place s f (evenAddress a) = .ok (k, p) → G (storedWord k p v s)
  byte    : ∀ s f a k p v, G s → files f → place s f a = .ok (k, p) → G (storedByte k p v s)
  current : ∀ s, G s → files (currentMap s)
  operand : ∀ s side g, G s → side ≠ .none → files (operandMap s side g)
  setSt   : ∀ s f, G s → status f → G (s.setSt (f s.st))
  after   : ∀ f b g, f ≠ .pm → f ≠ .mf → status g → status fun st => setFlag f b (g st)
  same    : status fun st => st

variable {G : State → Prop} {files : MapNo → Prop} {status : (Word → Word) → Prop}

namespace Closed

/-! ## Status functions -/

theorem field (h : Closed G files status) (f : Flag) (b : Bool) (hp : f ≠ .pm) (hm : f ≠ .mf) : status (setFlag f b) :=
  h.after f b _ hp hm h.same

theorem zero (h : Closed G files status) {w : Nat} (r : BitVec w) : status (compareToZero r) := by
  show status fun st => setFlag .eq _ (setFlag .agt _ (setFlag .lgt _ st))
  exact h.after .eq _ (fun st => setFlag .agt _ (setFlag .lgt _ st)) (by decide) (by decide)
    (h.after .agt _ (setFlag .lgt _) (by decide) (by decide) (h.field .lgt _ (by decide) (by decide)))

theorem operands (h : Closed G files status) {w : Nat} (a b : BitVec w) : status (compareOperands a b) := by
  show status fun st => setFlag .eq _ (setFlag .agt _ (setFlag .lgt _ st))
  exact h.after .eq _ (fun st => setFlag .agt _ (setFlag .lgt _ st)) (by decide) (by decide)
    (h.after .agt _ (setFlag .lgt _) (by decide) (by decide) (h.field .lgt _ (by decide) (by decide)))

theorem logicalByte (h : Closed G files status) (r : Byte) : status (Computed.logicalByte r).status :=
  h.after .op (oddParity r) (compareToZero r) (by decide) (by decide) (h.zero r)

theorem arithmetic (h : Closed G files status) {w : Nat} (x : Sum w) : status (Computed.arithmetic x).status :=
  h.after .ov x.overflow (fun st => setFlag .c x.carry (compareToZero x.value st)) (by decide) (by decide)
    (h.after .c x.carry _ (by decide) (by decide) (h.zero x.value))

theorem arithmeticByte (h : Closed G files status) (x : Sum 8) : status (Computed.arithmeticByte x).status :=
  h.after .op (oddParity x.value) (Computed.arithmetic x).status (by decide) (by decide) (h.arithmetic x)

/-! ## Accesses -/

theorem status' (h : Closed G files status) {f : Word → Word} (hf : status f) :
    Preserves G (setStatus f) fun _ => True := Preserves.update fun s hs => h.setSt s f hs hf

theorem readWord (h : Closed G files status) (f : MapNo) (a : Word) : Preserves G (readWord f a) fun _ => True := by
  intro s hs v t e
  rw [readWord_apply] at e
  cases hp : place s f (evenAddress a) with
  | error x => rw [hp] at e; cases e
  | ok kp =>
    rw [hp] at e
    cases e
    obtain ⟨k, p⟩ := kp
    cases k
    · exact ⟨h.turn s hs, trivial⟩
    · exact ⟨h.turn s hs, trivial⟩
    · exact ⟨h.draw s.turn _ (h.turn s hs), trivial⟩

theorem readByte (h : Closed G files status) (f : MapNo) (a : Word) : Preserves G (readByte f a) fun _ => True := by
  intro s hs v t e
  rw [readByte_apply] at e
  cases hp : place s f a with
  | error x => rw [hp] at e; cases e
  | ok kp =>
    rw [hp] at e
    cases e
    obtain ⟨k, p⟩ := kp
    cases k
    · exact ⟨h.turn s hs, trivial⟩
    · exact ⟨h.turn s hs, trivial⟩
    · exact ⟨h.draw s.turn _ (h.turn s hs), trivial⟩

theorem writeWord (h : Closed G files status) {f : MapNo} (hf : files f) (a v : Word) :
    Preserves G (writeWord f a v) fun _ => True := by
  intro s hs u t e
  rw [writeWord_apply] at e
  cases hp : place s f (evenAddress a) with
  | error x => rw [hp] at e; cases e
  | ok kp => rw [hp] at e; cases e; exact ⟨h.word s f a kp.1 kp.2 v hs hf hp, trivial⟩

theorem writeByte (h : Closed G files status) {f : MapNo} (hf : files f) (a : Word) (v : Byte) :
    Preserves G (writeByte f a v) fun _ => True := by
  intro s hs u t e
  rw [writeByte_apply] at e
  cases hp : place s f a with
  | error x => rw [hp] at e; cases e
  | ok kp => rw [hp] at e; cases e; exact ⟨h.byte s f a kp.1 kp.2 v hs hf hp, trivial⟩

theorem load (h : Closed G files status) (a : Word) : Preserves G (load a) fun _ => True :=
  Preserves.ofState (f := fun s => Machine.readWord (currentMap s) a) fun s _ => h.readWord (currentMap s) a

theorem store (h : Closed G files status) (a v : Word) : Preserves G (store a v) fun _ => True :=
  Preserves.ofState (f := fun s => Machine.writeWord (currentMap s) a v) fun s hs => h.writeWord (h.current s hs) a v

theorem readReg (h : Closed G files status) (r : Reg) : Preserves G (readReg r) fun _ => True :=
  Preserves.ofState (f := fun s => Machine.load (regAddress s r)) fun s _ => h.load (regAddress s r)

theorem writeReg (h : Closed G files status) (r : Reg) (v : Word) : Preserves G (writeReg r v) fun _ => True :=
  Preserves.ofState (f := fun s => Machine.store (regAddress s r) v) fun s _ => h.store (regAddress s r) v

theorem fetch (h : Closed G files status) : Preserves G fetch fun _ => True :=
  Preserves.get.bind fun s _ => (h.load s.pc).bind fun _ _ =>
    (Preserves.update fun t ht => h.jump t _ ht).bind fun _ _ => Preserves.pure trivial

theorem contextSwitch (h : Closed G files status) (vec wp pc st : Word) (o : Option Word) :
    Preserves G (contextSwitch vec wp pc st o) fun _ => True := by
  refine (h.load vec).bind fun newWp _ => (h.load (vec + 2)).bind fun newPc _ => ?_
  have rest : Preserves G (do
      Machine.store (newWp + 26) wp
      Machine.store (newWp + 28) pc
      Machine.store (newWp + 30) st
      Machine.update fun s => (s.setWp newWp).jump newPc : Op Unit) fun _ => True :=
    (h.store _ _).bind fun _ _ => (h.store _ _).bind fun _ _ => (h.store _ _).bind fun _ _ =>
      Preserves.update fun s hs => h.jump _ _ (h.setWp s newWp hs)
  cases o with
  | none => exact rest
  | some a => exact (h.store _ _).bind fun _ _ => rest

theorem cruOutBits (h : Closed G files status) (n : Nat) :
    ∀ line v, Preserves G (cruOutBits n line v) fun _ => True := by
  induction n with
  | zero => exact fun _ _ => Preserves.pure trivial
  | succ n ih => exact fun line v => (Preserves.update fun s hs => h.emit s _ hs).bind fun _ _ => ih _ _

theorem cruIn (h : Closed G files status) (line : BitVec 12) : Preserves G (cruIn line) fun _ => True := by
  intro s hs b t e
  cases e
  exact ⟨h.draw s _ hs, trivial⟩

theorem cruInBits (h : Closed G files status) (n : Nat) : ∀ line, Preserves G (cruInBits n line) fun _ => True := by
  induction n with
  | zero => exact fun _ => Preserves.pure trivial
  | succ n ih => exact fun line => (h.cruIn line).bind fun _ _ => (ih _).bind fun _ _ => Preserves.pure trivial

/-! ## Operands -/

theorem effectiveAddress (h : Closed G files status) (g : GenAddr) : Preserves G (effectiveAddress g) fun _ => True := by
  cases g with
  | reg r => intro s hs a t e; cases e; exact ⟨hs, trivial⟩
  | ind r => exact h.readReg r
  | sym => exact h.fetch
  | idx r => exact h.fetch.bind fun _ _ => (h.readReg r).bind fun _ _ => Preserves.pure trivial
  | inc r =>
    exact (h.readReg r).bind fun _ _ => Preserves.get.bind fun _ _ =>
      Preserves.ite (fun _ => Preserves.stop _) fun _ => Preserves.pure trivial

theorem autoincrement (h : Closed G files status) (g : GenAddr) (size : Size) (a : Word) :
    Preserves G (autoincrement g size a) fun _ => True := by
  cases g with
  | inc r => exact h.writeReg r _
  | _ => exact Preserves.pure trivial

theorem locate (h : Closed G files status) {side : LongDistance} (hs : side ≠ .none) (g : GenAddr) :
    Preserves G (locate side g) fun l => files l.file := by
  refine (h.effectiveAddress g).bind fun a _ => ?_
  intro s hg l t e
  cases e
  exact ⟨hg, h.operand s side g hg hs⟩

theorem operandAddress (h : Closed G files status) {side : LongDistance} (hs : side ≠ .none) (size : Size) (g : GenAddr) :
    Preserves G (operandAddress side size g) fun l => files l.file :=
  (h.locate hs g).bind fun _ hl => (h.autoincrement g size _).bind fun _ _ => Preserves.pure hl

theorem operandWord (h : Closed G files status) {side : LongDistance} (hs : side ≠ .none) (g : GenAddr) :
    Preserves G (operandWord side g) fun x => files x.1.file :=
  (h.locate hs g).bind fun _ hl => (h.readWord _ _).bind fun _ _ => (h.autoincrement g .word _).bind fun _ _ =>
    Preserves.pure hl

theorem operandByte (h : Closed G files status) {side : LongDistance} (hs : side ≠ .none) (g : GenAddr) :
    Preserves G (operandByte side g) fun x => files x.1.file :=
  (h.locate hs g).bind fun _ hl => (h.readByte _ _).bind fun _ _ => (h.autoincrement g .byte _).bind fun _ _ =>
    Preserves.pure hl

/-! ## Shapes -/

theorem binaryWord (h : Closed G files status) (gs gd : GenAddr) {k : Word → Word → Computed 16}
    (hk : ∀ a b, status (k a b).status) : Preserves G (binaryWord gs gd k) fun _ => True :=
  (h.operandWord (by decide) gs).bind fun _ _ => (h.operandWord (by decide) gd).bind fun _ hl =>
    (h.writeWord hl _ _).bind fun _ _ => h.status' (hk _ _)

theorem binaryByte (h : Closed G files status) (gs gd : GenAddr) {k : Byte → Byte → Computed 8}
    (hk : ∀ a b, status (k a b).status) : Preserves G (binaryByte gs gd k) fun _ => True :=
  (h.operandByte (by decide) gs).bind fun _ _ => (h.operandByte (by decide) gd).bind fun _ hl =>
    (h.writeByte hl _ _).bind fun _ _ => h.status' (hk _ _)

theorem copyWord (h : Closed G files status) (gs gd : GenAddr) : Preserves G (copyWord gs gd) fun _ => True :=
  (h.operandWord (by decide) gs).bind fun _ _ => (h.operandAddress (by decide) .word gd).bind fun _ hl =>
    (h.writeWord hl _ _).bind fun _ _ => h.status' (h.zero _)

theorem copyByte (h : Closed G files status) (gs gd : GenAddr) : Preserves G (copyByte gs gd) fun _ => True :=
  (h.operandByte (by decide) gs).bind fun _ _ => (h.operandAddress (by decide) .byte gd).bind fun _ hl =>
    (h.writeByte hl _ _).bind fun _ _ => h.status' (h.logicalByte _)

theorem inspectWords (h : Closed G files status) (gs gd : GenAddr) {k : Word → Word → Word → Word}
    (hk : ∀ a b, status (k a b)) : Preserves G (inspectWords gs gd k) fun _ => True :=
  (h.operandWord (by decide) gs).bind fun _ _ => (h.operandWord (by decide) gd).bind fun _ _ => h.status' (hk _ _)

theorem inspectBytes (h : Closed G files status) (gs gd : GenAddr) {k : Byte → Byte → Word → Word}
    (hk : ∀ a b, status (k a b)) : Preserves G (inspectBytes gs gd k) fun _ => True :=
  (h.operandByte (by decide) gs).bind fun _ _ => (h.operandByte (by decide) gd).bind fun _ _ => h.status' (hk _ _)

theorem modifyWord (h : Closed G files status) (g : GenAddr) {k : Word → Computed 16} (hk : ∀ a, status (k a).status) :
    Preserves G (modifyWord g k) fun _ => True :=
  (h.operandWord (by decide) g).bind fun _ hl => (h.writeWord hl _ _).bind fun _ _ => h.status' (hk _)

theorem fillWord (h : Closed G files status) (g : GenAddr) (v : Word) : Preserves G (fillWord g v) fun _ => True :=
  (h.operandAddress (by decide) .word g).bind fun _ hl => h.writeWord hl _ _

theorem immediateResult (h : Closed G files status) (w : Reg) {k : Word → Word → Computed 16}
    (hk : ∀ a b, status (k a b).status) : Preserves G (immediateResult w k) fun _ => True :=
  h.fetch.bind fun _ _ => (h.readReg w).bind fun _ _ => (h.writeReg w _).bind fun _ _ => h.status' (hk _ _)

theorem inspectRegister (h : Closed G files status) (g : GenAddr) (d : Reg) {k : Word → Word → Word → Word}
    (hk : ∀ a b, status (k a b)) : Preserves G (inspectRegister g d k) fun _ => True :=
  (h.operandWord (by decide) g).bind fun _ _ => (h.readReg d).bind fun _ _ => h.status' (hk _ _)

theorem shiftCount (h : Closed G files status) (c : BitVec 4) : Preserves G (shiftCount c) fun _ => True :=
  Preserves.ite (fun _ => Preserves.pure trivial) fun _ => (h.readReg 0).bind fun _ _ => Preserves.pure trivial

theorem shiftRegister (h : Closed G files status) (w : Reg) (c : BitVec 4) {k : Word → Nat → Computed 16}
    (hk : ∀ a n, status (k a n).status) : Preserves G (shiftRegister w c k) fun _ => True :=
  (h.shiftCount c).bind fun _ _ => (h.readReg w).bind fun _ _ => (h.writeReg w _).bind fun _ _ => h.status' (hk _ _)

theorem jumpIf (h : Closed G files status) (cond : Word → Bool) (disp : BitVec 8) :
    Preserves G (jumpIf cond disp) fun _ => True :=
  Preserves.update fun s hs => by
    split
    · exact h.jump s _ hs
    · exact hs

theorem loadMapFile (h : Closed G files status) (l : Loc) : Preserves G (loadMapFile l) fun _ => True :=
  (h.readWord _ _).bind fun _ _ => (h.readWord _ _).bind fun _ _ => (h.readWord _ _).bind fun _ _ =>
    (h.readWord _ _).bind fun _ _ => (h.readWord _ _).bind fun _ _ => (h.readWord _ _).bind fun _ _ =>
      Preserves.pure trivial

theorem errorInterrupt (h : Closed G files status) (n : Nat) {s : State} (hs : G s) (hu : unprivileged s = true) :
    G ((s.jump (s.pc + BitVec.ofNat 16 (2 * n))).setErr true) := h.trap _ (h.jump s _ hs) hu

theorem whenPrivileged (h : Closed G files status) (n : Nat) {body : Op Unit}
    (hb : ∀ s, G s → unprivileged s = false → ∀ a t, body s = .ok (a, t) → G t) :
    Preserves G (whenPrivileged n body) fun _ => True := by
  intro s hs a t e
  cases hu : unprivileged s
  · rw [whenPrivileged_of_privileged hu] at e
    exact ⟨hb s hs hu a t e, trivial⟩
  · rw [whenPrivileged_of_unprivileged hu] at e
    cases e
    exact ⟨h.errorInterrupt n hs hu, trivial⟩

theorem withCruLine (h : Closed G files status) (line : BitVec 12) (n : Nat) {body : Op Unit}
    (hb : Preserves G body fun _ => True) : Preserves G (withCruLine line n body) fun _ => True :=
  Preserves.ite (fun _ => h.whenPrivileged n fun s hs _ a t e => (hb s hs a t e).1) fun _ => hb

end Closed

/-! ## The end of an instruction -/

/-- What a body preserves, the instruction does, when setting the latch does. -/
theorem completeLatching_preserves {body : Op LongDistance} {Q : LongDistance → Prop} (hb : Preserves G body Q)
    {G' : State → Prop} (hl : ∀ s ld, G s → Q ld → G' (s.setLd ld)) {s t : State} (hs : G s)
    (e : completeLatching body s = .next t) : G' t := by
  unfold completeLatching at e
  cases hx : body s with
  | error x => rw [hx] at e; cases x <;> cases e
  | ok p =>
    obtain ⟨ld, u⟩ := p
    rw [hx] at e
    cases e
    have := hb s hs ld u hx
    exact hl u ld this.1 this.2

/-- What a body preserves, the instruction does, when clearing the latch does. -/
theorem complete_preserves {body : Op Unit} (hb : Preserves G body fun _ => True) {G' : State → Prop}
    (hl : ∀ s, G s → G' (s.setLd .none)) {s t : State} (hs : G s) (e : complete body s = .next t) : G' t := by
  obtain ⟨u, hu, rfl⟩ := complete_eq_next.mp e
  exact hl u (hb s hs () u hu).1

/-! ## Instructions -/

/-- The instructions that act on the system state by rules of their own: the mask, map files, latches, the idle flag, the clock
enable, all of ST, or another instruction. -/
def isSystem : Instr → Bool
  | .limi | .lmf _ _ | .idle | .rset | .rtwp | .ckon | .ckof | .lrex | .xop _ _ | .lds _ | .ldd _ | .x _ => true
  | _ => false

/-- Every other instruction preserves what is closed. -/
theorem Closed.exec (h : Closed G files status) {G' : State → Prop} (hl : ∀ s, G s → G' (s.setLd .none)) {i : Instr}
    (hi : isSystem i = false) {s t : State} (hs : G s) (e : exec i s = .next t) : G' t := by
  cases i with
  | limi | lmf | idle | rset | rtwp | ckon | ckof | lrex | xop | lds | ldd | x => cases hi
  | a gs gd => exact complete_preserves (h.binaryWord gs gd fun a b => h.arithmetic (add a b)) hl hs e
  | s gs gd => exact complete_preserves (h.binaryWord gs gd fun a b => h.arithmetic (sub b a)) hl hs e
  | ab gs gd => exact complete_preserves (h.binaryByte gs gd fun a b => h.arithmeticByte (add a b)) hl hs e
  | sb gs gd => exact complete_preserves (h.binaryByte gs gd fun a b => h.arithmeticByte (sub b a)) hl hs e
  | soc gs gd => exact complete_preserves (h.binaryWord gs gd fun a b => h.zero (b ||| a)) hl hs e
  | szc gs gd => exact complete_preserves (h.binaryWord gs gd fun a b => h.zero (b &&& ~~~a)) hl hs e
  | socb gs gd => exact complete_preserves (h.binaryByte gs gd fun a b => h.logicalByte (b ||| a)) hl hs e
  | szcb gs gd => exact complete_preserves (h.binaryByte gs gd fun a b => h.logicalByte (b &&& ~~~a)) hl hs e
  | mov gs gd => exact complete_preserves (h.copyWord gs gd) hl hs e
  | movb gs gd => exact complete_preserves (h.copyByte gs gd) hl hs e
  | c gs gd => exact complete_preserves (h.inspectWords gs gd fun a b => h.operands a b) hl hs e
  | cb gs gd =>
    exact complete_preserves (h.inspectBytes gs gd fun a b =>
      h.after .op (oddParity a) (compareOperands a b) (by decide) (by decide) (h.operands a b)) hl hs e
  | ai w => exact complete_preserves (h.immediateResult w fun a b => h.arithmetic (add a b)) hl hs e
  | andi w => exact complete_preserves (h.immediateResult w fun a b => h.zero (a &&& b)) hl hs e
  | ori w => exact complete_preserves (h.immediateResult w fun a b => h.zero (a ||| b)) hl hs e
  | li w =>
    exact complete_preserves (h.fetch.bind fun v _ => (h.writeReg w v).bind fun _ _ => h.status' (h.zero v)) hl hs e
  | ci w =>
    exact complete_preserves (h.fetch.bind fun _ _ => (h.readReg w).bind fun _ _ => h.status' (h.operands _ _)) hl hs e
  | coc g d =>
    exact complete_preserves (h.inspectRegister g d fun _ _ => h.field .eq _ (by decide) (by decide)) hl hs e
  | czc g d =>
    exact complete_preserves (h.inspectRegister g d fun _ _ => h.field .eq _ (by decide) (by decide)) hl hs e
  | xor g d =>
    exact complete_preserves ((h.operandWord (by decide) g).bind fun _ _ => (h.readReg d).bind fun _ _ =>
      (h.writeReg d _).bind fun _ _ => h.status' (h.zero _)) hl hs e
  | mpy g d =>
    exact complete_preserves ((h.operandWord (by decide) g).bind fun _ _ => (h.readReg d).bind fun _ _ =>
      Preserves.get.bind fun _ _ => (h.store _ _).bind fun _ _ => h.store _ _) hl hs e
  | div g d =>
    exact complete_preserves ((h.operandWord (by decide) g).bind fun _ _ => Preserves.get.bind fun _ _ =>
      (h.load _).bind fun _ _ => Preserves.ite (fun _ => h.status' (h.field .ov _ (by decide) (by decide))) fun _ =>
        (h.load _).bind fun _ _ => (h.store _ _).bind fun _ _ => (h.store _ _).bind fun _ _ =>
          h.status' (h.field .ov _ (by decide) (by decide))) hl hs e
  | inc g => exact complete_preserves (h.modifyWord g fun a => h.arithmetic (add a 1)) hl hs e
  | inct g => exact complete_preserves (h.modifyWord g fun a => h.arithmetic (add a 2)) hl hs e
  | dec g => exact complete_preserves (h.modifyWord g fun a => h.arithmetic (sub a 1)) hl hs e
  | dect g => exact complete_preserves (h.modifyWord g fun a => h.arithmetic (sub a 2)) hl hs e
  | neg g =>
    exact complete_preserves (h.modifyWord g fun a =>
      h.after .ov (a == 0x8000) (compareToZero (-a)) (by decide) (by decide) (h.zero (-a))) hl hs e
  | abs g =>
    exact complete_preserves (h.modifyWord g fun a =>
      h.after .c (Config.absCarry a) (fun st => setFlag .ov (a == 0x8000) (compareToZero a st)) (by decide) (by decide)
        (h.after .ov (a == 0x8000) (compareToZero a) (by decide) (by decide) (h.zero a))) hl hs e
  | inv g => exact complete_preserves (h.modifyWord g fun a => h.zero (~~~a)) hl hs e
  | swpb g => exact complete_preserves (h.modifyWord g fun _ => h.same) hl hs e
  | clr g => exact complete_preserves (h.fillWord g _) hl hs e
  | seto g => exact complete_preserves (h.fillWord g _) hl hs e
  | b g =>
    exact complete_preserves ((h.operandAddress (by decide) .word g).bind fun _ _ =>
      Preserves.update fun s hs => h.jump s _ hs) hl hs e
  | bl g =>
    exact complete_preserves ((h.operandAddress (by decide) .word g).bind fun _ _ => Preserves.get.bind fun _ _ =>
      (h.writeReg 11 _).bind fun _ _ => Preserves.update fun s hs => h.jump s _ hs) hl hs e
  | blwp g =>
    exact complete_preserves ((h.operandAddress (by decide) .word g).bind fun _ _ => Preserves.get.bind fun _ _ =>
      h.contextSwitch _ _ _ _ _) hl hs e
  | lwpi => exact complete_preserves (h.fetch.bind fun _ _ => Preserves.update fun s hs => h.setWp s _ hs) hl hs e
  | stst w => exact complete_preserves (h.writeReg w _) hl hs e
  | stwp w => exact complete_preserves (h.writeReg w _) hl hs e
  | sra w c => exact complete_preserves (h.shiftRegister w c fun _ _ =>
      h.after .c _ _ (by decide) (by decide) (h.zero _)) hl hs e
  | srl w c => exact complete_preserves (h.shiftRegister w c fun _ _ =>
      h.after .c _ _ (by decide) (by decide) (h.zero _)) hl hs e
  | src w c => exact complete_preserves (h.shiftRegister w c fun _ _ =>
      h.after .c _ _ (by decide) (by decide) (h.zero _)) hl hs e
  | sla w c => exact complete_preserves (h.shiftRegister w c fun a n =>
      h.after .ov (signChanges a n) (fun st => setFlag .c _ (compareToZero _ st)) (by decide) (by decide)
        (h.after .c _ _ (by decide) (by decide) (h.zero _))) hl hs e
  | jmp d => exact complete_preserves (h.jumpIf (fun _ => true) d) hl hs e
  | jlt d => exact complete_preserves (h.jumpIf (fun st => !flag .agt st && !flag .eq st) d) hl hs e
  | jle d => exact complete_preserves (h.jumpIf (fun st => !flag .lgt st || flag .eq st) d) hl hs e
  | jeq d => exact complete_preserves (h.jumpIf (fun st => flag .eq st) d) hl hs e
  | jhe d => exact complete_preserves (h.jumpIf (fun st => flag .lgt st || flag .eq st) d) hl hs e
  | jgt d => exact complete_preserves (h.jumpIf (fun st => flag .agt st) d) hl hs e
  | jne d => exact complete_preserves (h.jumpIf (fun st => !flag .eq st) d) hl hs e
  | jnc d => exact complete_preserves (h.jumpIf (fun st => !flag .c st) d) hl hs e
  | joc d => exact complete_preserves (h.jumpIf (fun st => flag .c st) d) hl hs e
  | jno d => exact complete_preserves (h.jumpIf (fun st => !flag .ov st) d) hl hs e
  | jl d => exact complete_preserves (h.jumpIf (fun st => !flag .lgt st && !flag .eq st) d) hl hs e
  | jh d => exact complete_preserves (h.jumpIf (fun st => flag .lgt st && !flag .eq st) d) hl hs e
  | jop d => exact complete_preserves (h.jumpIf (fun st => flag .op st) d) hl hs e
  | sbo d =>
    exact complete_preserves ((h.readReg 12).bind fun _ _ => h.withCruLine _ 0 (Preserves.update fun s hs => h.emit s _ hs))
      hl hs e
  | sbz d =>
    exact complete_preserves ((h.readReg 12).bind fun _ _ => h.withCruLine _ 0 (Preserves.update fun s hs => h.emit s _ hs))
      hl hs e
  | tb d =>
    exact complete_preserves ((h.readReg 12).bind fun _ _ => h.withCruLine _ 0 ((h.cruIn _).bind fun _ _ =>
      h.status' (h.field .eq _ (by decide) (by decide)))) hl hs e
  | ldcr g c =>
    exact complete_preserves ((h.readReg 12).bind fun _ _ => h.withCruLine _ _ (Preserves.ite
      (fun _ => (h.operandByte (by decide) g).bind fun _ _ => (h.cruOutBits _ _ _).bind fun _ _ =>
        h.status' (h.logicalByte _))
      fun _ => (h.operandWord (by decide) g).bind fun _ _ => (h.cruOutBits _ _ _).bind fun _ _ =>
        h.status' (h.zero _))) hl hs e
  | stcr g c =>
    exact complete_preserves ((h.readReg 12).bind fun _ _ => h.withCruLine _ _ (Preserves.ite
      (fun _ => (h.operandAddress (by decide) .byte g).bind fun _ hf => (h.cruInBits _ _).bind fun _ _ =>
        (h.writeByte hf _ _).bind fun _ _ => h.status' (h.logicalByte _))
      fun _ => (h.operandAddress (by decide) .word g).bind fun _ hf => (h.cruInBits _ _).bind fun _ _ =>
        (h.writeWord hf _ _).bind fun _ _ => h.status' (h.zero _))) hl hs e

end Sys2Proof.Machine
end

