-- ==== Sys2Proof/Laws/Steps.lean ====
section
/-! SUPPORT. What reading leaves, what a fetch and a context switch do, and what a step that answers ran. -/

namespace Sys2Proof.Machine

/-- What reading memory and fetching leave: everything but PC, the events, the counter of free values, and what the environment
writes in its turns. -/
structure ReadFrame (s t : State) : Prop where
  plat   : t.plat = s.plat
  map0   : t.map0 = s.map0
  map1   : t.map1 = s.map1
  map2   : t.map2 = s.map2
  irq    : t.irq = s.irq
  clk    : t.clk = s.clk
  err    : t.err = s.err
  idle   : t.idle = s.idle
  clken  : t.clken = s.clken
  irqEnv : t.irqEnv = s.irqEnv
  wp     : t.wp = s.wp
  st     : t.st = s.st
  ld     : t.ld = s.ld
  dmaEnv : t.dmaEnv <:+ s.dmaEnv
  mem    : ∀ q, s.Quiet q → t.mem.byte q = s.mem.byte q

/-- States that differ in PC, the events and the counter alone. -/
theorem ReadFrame.pc_events_draws (s : State) (pc : Word) (events : List Event) (draws : Nat) :
    ReadFrame s (((s.setPc pc).setEvents events).setDraws draws) :=
  ⟨rfl, rfl, rfl, rfl, rfl, rfl, rfl, rfl, rfl, rfl, rfl, rfl, rfl, List.suffix_refl _, fun _ _ => rfl⟩

theorem ReadFrame.refl (s : State) : ReadFrame s s := ReadFrame.pc_events_draws s s.pc s.events s.draws

theorem ReadFrame.turn (s : State) : ReadFrame s s.turn :=
  ⟨rfl, rfl, rfl, rfl, rfl, rfl, rfl, rfl, rfl, rfl, rfl, rfl, rfl, List.tail_suffix _, fun _ h => h.turn_byte⟩

theorem ReadFrame.trans {s t u : State} (a : ReadFrame s t) (b : ReadFrame t u) : ReadFrame s u :=
  ⟨b.plat.trans a.plat, b.map0.trans a.map0, b.map1.trans a.map1, b.map2.trans a.map2, b.irq.trans a.irq,
    b.clk.trans a.clk, b.err.trans a.err, b.idle.trans a.idle, b.clken.trans a.clken, b.irqEnv.trans a.irqEnv,
    b.wp.trans a.wp, b.st.trans a.st, b.ld.trans a.ld, b.dmaEnv.trans a.dmaEnv,
    fun q h => (b.mem q (h.suffix a.dmaEnv)).trans (a.mem q h)⟩

/-- A read frame moves no place. -/
theorem ReadFrame.place {s t : State} (h : ReadFrame s t) (f : MapNo) (a : Word) : place t f a = place s f a :=
  place_congr h.plat h.map0 h.map1 h.map2 f a

theorem ReadFrame.currentMap {s t : State} (h : ReadFrame s t) : currentMap t = currentMap s := by
  unfold Machine.currentMap
  rw [h.st]

theorem readWord_frame {f : MapNo} {a v : Word} {s t : State} (h : readWord f a s = .ok (v, t)) :
    ReadFrame s t ∧ t.pc = s.pc := by
  rw [readWord_apply] at h
  cases hp : place s f (evenAddress a) with
  | error e => rw [hp] at h; cases h
  | ok kp =>
    obtain ⟨k, p⟩ := kp
    rw [hp] at h
    cases h
    cases k
    · exact ⟨.turn s, rfl⟩
    · exact ⟨.turn s, rfl⟩
    · exact ⟨(ReadFrame.turn s).trans (.pc_events_draws _ s.pc _ _), rfl⟩

theorem readByte_frame {f : MapNo} {a : Word} {v : Byte} {s t : State} (h : readByte f a s = .ok (v, t)) :
    ReadFrame s t ∧ t.pc = s.pc := by
  rw [readByte_apply] at h
  cases hp : place s f a with
  | error e => rw [hp] at h; cases h
  | ok kp =>
    obtain ⟨k, p⟩ := kp
    rw [hp] at h
    cases h
    cases k
    · exact ⟨.turn s, rfl⟩
    · exact ⟨.turn s, rfl⟩
    · exact ⟨(ReadFrame.turn s).trans (.pc_events_draws _ s.pc _ _), rfl⟩

/-- A fetch reads the word at PC and moves PC past it. -/
theorem fetch_frame {v : Word} {s t : State} (h : fetch s = .ok (v, t)) :
    ReadFrame s t ∧ t.pc = evenAddress (s.pc + 2) := by
  unfold fetch at h
  rw [Op.get_bind] at h
  obtain ⟨w, u, h1, h2⟩ := Op.bind_eq_ok.mp h
  rw [Op.update_bind] at h2
  cases h2
  exact ⟨(readWord_frame (f := currentMap s) h1).1.trans (.pc_events_draws u (evenAddress (s.pc + 2)) u.events u.draws), rfl⟩

/-- A fetch of a RAM or ROM word. -/
theorem HoldsWord.fetch {s : State} {v : Word} (h : HoldsWord s.turn (currentMap s) s.pc v) :
    fetch s = .ok (v, s.turn.setPc (evenAddress (s.pc + 2))) := by
  unfold Machine.fetch
  rw [Op.get_bind, Op.bind_ok (show load s.pc s = .ok (v, s.turn) from h.read)]
  rfl

/-- A store through the map file in force. -/
theorem store_ok {a v : Word} {s : State} {f : MapNo} {k : Config.RegionKind} {p : Nat} (h : currentMap s = f)
    (hp : place s f (evenAddress a) = .ok (k, p)) : store a v s = .ok ((), storedWord k p v s) := by
  unfold store
  rw [h, writeWord_ok hp]

/-- A load through the map file in force. -/
theorem load_eq {a : Word} {s : State} {f : MapNo} (h : currentMap s = f) : load a s = readWord f a s := by
  unfold load
  rw [h]

theorem currentMap_storedWord (k p v) (s : State) : currentMap (storedWord k p v s) = currentMap s := by
  unfold currentMap
  simp

/-- A context switch without an operand: the vector's two words, three saves, WP and PC (60_exceptions.md R300). -/
theorem contextSwitch_ok {vec wp pc st newWp newPc : Word} {u u1 u2 : State} {f : MapNo} (hf : currentMap u = f)
    (h1 : readWord f vec u = .ok (newWp, u1)) (h2 : readWord f (vec + 2) u1 = .ok (newPc, u2)) (x : SavePlaces u2 f newWp) :
    contextSwitch vec wp pc st none u = .ok ((), ((x.saved wp pc st u2).setWp newWp).jump newPc) := by
  have m1 : currentMap u1 = f := (readWord_frame h1).1.currentMap.trans hf
  have m2 : currentMap u2 = f := (readWord_frame h2).1.currentMap.trans m1
  unfold contextSwitch
  rw [Op.bind_ok ((load_eq hf).trans h1), Op.bind_ok ((load_eq m1).trans h2)]
  show (store (newWp + 26) wp >>= _) u2 = _
  rw [Op.bind_ok (store_ok m2 x.at13),
    Op.bind_ok (store_ok (k := x.k14) (p := x.p14) ((currentMap_storedWord _ _ _ _).trans m2) (by simpa using x.at14)),
    Op.bind_ok (store_ok (k := x.k15) (p := x.p15)
      ((currentMap_storedWord _ _ _ _).trans ((currentMap_storedWord _ _ _ _).trans m2)) (by simpa using x.at15))]
  rfl

/-- The saves of a context switch touch their six bytes alone, and the environment writes in its turns. -/
theorem SavePlaces.saved_byte {s : State} {f : MapNo} {newWp : Word} (x : SavePlaces s f newWp) (wp pc st : Word) (u : State)
    {q : Nat} (h : x.Outside q) (hu : u.Quiet q) : (x.saved wp pc st u).mem.byte q = u.mem.byte q := by
  obtain ⟨h1, h2, h3, h4, h5, h6⟩ := h
  unfold SavePlaces.saved
  rw [storedWord_byte_ne h5 h6 ((hu.storedWord _ _ _).storedWord _ _ _), storedWord_byte_ne h3 h4 (hu.storedWord _ _ _),
    storedWord_byte_ne h1 h2 hu]

/-! ## What a hardware module leaves (48_xop_longdistance.md R271) -/

@[simp] theorem State.afterModule_plat (s : State) (r : ModuleResult) : (s.afterModule r).plat = s.plat := rfl
@[simp] theorem State.afterModule_wp (s : State) (r : ModuleResult) : (s.afterModule r).wp = r.wp := rfl
@[simp] theorem State.afterModule_pc (s : State) (r : ModuleResult) : (s.afterModule r).pc = evenAddress r.pc := rfl
@[simp] theorem State.afterModule_st (s : State) (r : ModuleResult) : (s.afterModule r).st = r.st &&& s.plat.stMask := rfl
@[simp] theorem State.afterModule_mem (s : State) (r : ModuleResult) : (s.afterModule r).mem = writtenBy s.plat r.writes s.mem := rfl
@[simp] theorem State.afterModule_map0 (s : State) (r : ModuleResult) : (s.afterModule r).map0 = r.map0 := rfl
@[simp] theorem State.afterModule_map1 (s : State) (r : ModuleResult) : (s.afterModule r).map1 = r.map1 := rfl
@[simp] theorem State.afterModule_map2 (s : State) (r : ModuleResult) : (s.afterModule r).map2 = r.map2 := rfl
@[simp] theorem State.afterModule_ld (s : State) (r : ModuleResult) : (s.afterModule r).ld = s.ld := rfl
@[simp] theorem State.afterModule_irq (s : State) (r : ModuleResult) : (s.afterModule r).irq = s.irq := rfl
@[simp] theorem State.afterModule_clk (s : State) (r : ModuleResult) : (s.afterModule r).clk = s.clk := rfl
@[simp] theorem State.afterModule_err (s : State) (r : ModuleResult) : (s.afterModule r).err = r.err := rfl
@[simp] theorem State.afterModule_idle (s : State) (r : ModuleResult) : (s.afterModule r).idle = r.idle := rfl
@[simp] theorem State.afterModule_clken (s : State) (r : ModuleResult) : (s.afterModule r).clken = r.clken := rfl
@[simp] theorem State.afterModule_irqEnv (s : State) (r : ModuleResult) : (s.afterModule r).irqEnv = s.irqEnv := rfl
@[simp] theorem State.afterModule_dmaEnv (s : State) (r : ModuleResult) : (s.afterModule r).dmaEnv = s.dmaEnv := rfl
@[simp] theorem State.afterModule_events (s : State) (r : ModuleResult) : (s.afterModule r).events = s.events := rfl
@[simp] theorem State.afterModule_draws (s : State) (r : ModuleResult) : (s.afterModule r).draws = s.draws := rfl

/-! ## What a step that answers ran -/

/-- The instruction X substitutes is executed as itself, but for X. -/
theorem execSubstituted_eq {i : Instr} (h : ∀ g, i ≠ .x g) (s : State) : execSubstituted i s = exec i s := by
  cases i <;> first | rfl | exact absurd rfl (h _)

/-- An X that answers read a word that decodes to another instruction and executed it (42_branch.md R183). -/
theorem execX_next {g : GenAddr} {s t : State} (e : exec (.x g) s = .next t) :
    ∃ l ir s1 i, operandWord .src g s = .ok ((l, ir), s1) ∧ decodeWord ir = .ok i ∧ (∀ g', i ≠ .x g') ∧
      exec i (s1.setLd .none) = .next t := by
  change execX g s = _ at e
  unfold execX at e
  split at e
  · cases e
  · cases e
  · rename_i l ir s1 h
    split at e
    · cases e
    · rename_i i hd
      have hx : ∀ g', i ≠ .x g' := by rintro g' rfl; cases e
      exact ⟨l, ir, s1, i, h, hd, hx, (execSubstituted_eq hx _).symm.trans e⟩

/-- A fetch and execution that answers fetched a word, decoded it and executed it (40_addressing.md R120). -/
theorem fetchAndExecute_next {s t : State} (e : fetchAndExecute s = .next t) :
    ∃ ir s1 i, fetch s = .ok (ir, s1) ∧ decodeWord ir = .ok i ∧ exec i s1 = .next t := by
  unfold fetchAndExecute at e
  split at e
  · cases e
  · cases e
  · rename_i ir s1 h
    split at e
    · cases e
    · rename_i i hd
      exact ⟨ir, s1, i, h, hd, e⟩

/-- Sampling the inputs changes the inputs alone (60_exceptions.md R311). -/
theorem sampleInputs_eq (s : State) : ∃ irq clk env, sampleInputs s = ((s.setIrq irq).setClk clk).setIrqEnv env := by
  unfold sampleInputs
  cases h : s.irqEnv with
  | nil => exact ⟨s.irq, s.clk, [], by cases s; simp_all [State.setIrq, State.setClk, State.setIrqEnv]⟩
  | cons r rest => exact ⟨_, _, _, rfl⟩

end Sys2Proof.Machine
end

