-- ==== Sys2Proof/Machine/Assembler.lean ====
section
/-! DEFINITION. The assembly language (30_encoding.md R111 to R119): how a statement is written, the pseudo-instructions and
what they assemble to, jump operands, and what a directive does to the location counter and the object code. The text of a
program is read by no part of the machine; errors, listings and the macro language are outside the spec (00_scope.md). -/

namespace Sys2Proof.Assembler

/-! ## Pseudo-instructions and user-defined operation codes (30_encoding.md R115, R117) -/

/-- NOP, a jump to the next instruction (30_encoding.md R115). -/
def nop : Instr := .jmp 0

/-- RT, a branch to the address in workspace register 11 (30_encoding.md R115). -/
def rt : Instr := .b (.ind 11)

/-- XVEC: the workspace address and the subroutine address, which is that of the next statement when none is given
(30_encoding.md R115). -/
def xvec (wp : Word) (subroutine : Option Word) (location : Word) : List Word :=
  [wp, subroutine.getD (location + 4)]

/-- An operation code that DXOP assigned to extended operation n (30_encoding.md R117). -/
def definedXop (n : BitVec 4) (g : GenAddr) : Instr := .xop g n

/-! ## Operands (30_encoding.md R113, R116, R118) -/

/-- The displacement of a jump at a location to an address: their distance from the word after the jump, in words; none
outside -128 to +127 (30_encoding.md R116). The distance is modulo 2^16 (DEDUCED, log 36). An odd distance names no word and has none (DEDUCED from 30_encoding.md R95, log 36). -/
def jumpDisplacement (location target : Word) : Option (BitVec 8) :=
  let distance := (target - (location + 2)).toInt
  let d := distance / 2
  if distance % 2 = 0 ∧ -128 ≤ d ∧ d ≤ 127 then some (BitVec.ofInt 8 d) else none

/-- A character constant of one or two characters (30_encoding.md R113). -/
def characterConstant : List Byte → Option Word
  | [a] => some (a.setWidth 16)
  | [a, b] => some (a ++ b)
  | _ => none

/-- SDSMAC's operand of a symbol written without `@`: the workspace register the symbol names when its value lies in the
workspace, the memory address otherwise (30_encoding.md R118); an odd offset names no register (DEDUCED, log 36). -/
def symbolOperand (workspace value : Word) : GenAddr × List Word :=
  let offset := value.toNat - workspace.toNat
  if workspace.toNat ≤ value.toNat ∧ offset ≤ 30 ∧ offset % 2 = 0 then (.reg (BitVec.ofNat 4 (offset / 2)), [])
  else (.sym, [value])

/-! ## Directives (30_encoding.md R114) -/

/-- What the location counter counts (30_encoding.md R114). -/
inductive Origin where
  | relocatable
  | absolute
  | dummy
  deriving DecidableEq, Repr

/-- The assembler's location counter, the end of the relocatable code so far, and the object code by address. -/
structure Assembly where
  counter     : Word
  origin      : Origin
  relocatable : Word
  object      : List (Word × Byte)
  deriving DecidableEq, Repr

/-- With no origin directive the location counter starts at zero with relocatable addresses (30_encoding.md R114). -/
def Assembly.start : Assembly := ⟨0, .relocatable, 0, []⟩

/-- The directives that act on the location counter or produce object code; the others (IDT, TITL, OPTION, LIST, UNL, PAGE,
EQU, DEF, REF, WPNT, COPY, DFOP, DXOP, END) are `silent` here (30_encoding.md R114, R117). -/
inductive Directive where
  | aorg (address : Word)
  | rorg (address : Option Word)
  | dorg (address : Word)
  | bss (count : Word)
  | bes (count : Word)
  | even
  | byte (values : List Byte)
  | data (values : List Word)
  | text (negated : Bool) (characters : List Byte)
  | silent
  deriving DecidableEq, Repr

/-- Move the location counter, and the end of the relocatable code with it. -/
def Assembly.moveTo (a : Assembly) (counter : Word) : Assembly :=
  ⟨counter, a.origin, if a.origin = .relocatable then counter else a.relocatable, a.object⟩

/-- Place object code: the counter advances by one for each byte, and a dummy origin produces none (30_encoding.md R114). -/
def Assembly.place (a : Assembly) : List Byte → Assembly
  | [] => a
  | b :: bs =>
    let object := if a.origin = .dummy then a.object else a.object ++ [(a.counter, b)]
    Assembly.place (Assembly.moveTo ⟨a.counter, a.origin, a.relocatable, object⟩ (a.counter + 1)) bs

/-- The characters of TEXT; with a minus sign the last one is negated (30_encoding.md R114). -/
def textBytes (negated : Bool) : List Byte → List Byte
  | [] => []
  | [c] => [if negated then -c else c]
  | c :: cs => c :: textBytes negated cs

/-- What a directive does (30_encoding.md R114). -/
def Assembly.directive (a : Assembly) : Directive → Assembly
  | .aorg v => ⟨v, .absolute, a.relocatable, a.object⟩
  | .rorg v => ⟨v.getD a.relocatable, .relocatable, v.getD a.relocatable, a.object⟩
  | .dorg v => ⟨v, .dummy, a.relocatable, a.object⟩
  | .bss n => a.moveTo (a.counter + n)
  | .bes n => a.moveTo (a.counter + n)
  | .even => a.moveTo (if a.counter.getLsbD 0 then a.counter + 1 else a.counter)
  | .byte vs => a.place vs
  | .data vs => a.place (vs.flatMap bytesOfWord)
  | .text negated cs => a.place (textBytes negated cs)
  | .silent => a

/-- The value of the label of a directive: the first location of a BSS block, the location after a BES block (30_encoding.md
R114). R114 states no other: the label of EVEN is the location after it has advanced, of an origin directive the new location,
and of any other the location it stands at (DEDUCED, log 36). -/
def Assembly.label (a : Assembly) : Directive → Word
  | .bes n => a.counter + n
  | .aorg v => v
  | .dorg v => v
  | .rorg v => v.getD a.relocatable
  | .even => (a.directive .even).counter
  | _ => a.counter

/-- An instruction assembled at the location counter. -/
def Assembly.instruction (a : Assembly) (i : Assembled) : Assembly := a.place (encodeBytes i)

/-! ## Statements (30_encoding.md R111 to R113) -/

/-- A hexadecimal integer, after the prefix `>` (30_encoding.md R113). The digits beyond 9 are capitals, as in R113's examples, and
no leading zero is written; R113 states neither the letter case nor the number of digits (DESIGN CHOICE, log 37). -/
def hexadecimal (w : Word) : String := ">" ++ String.ofList ((Nat.toDigits 16 w.toNat).map Char.toUpper)

/-- A workspace register, by its preassigned symbol R0 to R15 (30_encoding.md R113, which also allows a plain integer: DESIGN
CHOICE, log 37). -/
def register (r : Reg) : String := "R" ++ toString r.toNat

/-- A general address, whose address is the next extension word; answers the words that are left (30_encoding.md R113). -/
def general : GenAddr → List Word → String × List Word
  | .reg r, ws => (register r, ws)
  | .ind r, ws => ("*" ++ register r, ws)
  | .inc r, ws => ("*" ++ register r ++ "+", ws)
  | .sym, ws => ("@" ++ hexadecimal (ws.headD 0), ws.tail)
  | .idx r, ws => ("@" ++ hexadecimal (ws.headD 0) ++ "(" ++ register r ++ ")", ws.tail)

/-- The mnemonic of an instruction (30_encoding.md R99). -/
def mnemonic : Instr → String
  | .li _ => "LI"
  | .ai _ => "AI"
  | .andi _ => "ANDI"
  | .ori _ => "ORI"
  | .ci _ => "CI"
  | .stwp _ => "STWP"
  | .stst _ => "STST"
  | .lwpi => "LWPI"
  | .limi => "LIMI"
  | .lmf _ _ => "LMF"
  | .idle => "IDLE"
  | .rset => "RSET"
  | .rtwp => "RTWP"
  | .ckon => "CKON"
  | .ckof => "CKOF"
  | .lrex => "LREX"
  | .blwp _ => "BLWP"
  | .b _ => "B"
  | .x _ => "X"
  | .clr _ => "CLR"
  | .neg _ => "NEG"
  | .inv _ => "INV"
  | .inc _ => "INC"
  | .inct _ => "INCT"
  | .dec _ => "DEC"
  | .dect _ => "DECT"
  | .bl _ => "BL"
  | .swpb _ => "SWPB"
  | .seto _ => "SETO"
  | .abs _ => "ABS"
  | .lds _ => "LDS"
  | .ldd _ => "LDD"
  | .sra _ _ => "SRA"
  | .srl _ _ => "SRL"
  | .sla _ _ => "SLA"
  | .src _ _ => "SRC"
  | .jmp _ => "JMP"
  | .jlt _ => "JLT"
  | .jle _ => "JLE"
  | .jeq _ => "JEQ"
  | .jhe _ => "JHE"
  | .jgt _ => "JGT"
  | .jne _ => "JNE"
  | .jnc _ => "JNC"
  | .joc _ => "JOC"
  | .jno _ => "JNO"
  | .jl _ => "JL"
  | .jh _ => "JH"
  | .jop _ => "JOP"
  | .sbo _ => "SBO"
  | .sbz _ => "SBZ"
  | .tb _ => "TB"
  | .coc _ _ => "COC"
  | .czc _ _ => "CZC"
  | .xor _ _ => "XOR"
  | .xop _ _ => "XOP"
  | .ldcr _ _ => "LDCR"
  | .stcr _ _ => "STCR"
  | .mpy _ _ => "MPY"
  | .div _ _ => "DIV"
  | .szc _ _ => "SZC"
  | .szcb _ _ => "SZCB"
  | .s _ _ => "S"
  | .sb _ _ => "SB"
  | .c _ _ => "C"
  | .cb _ _ => "CB"
  | .a _ _ => "A"
  | .ab _ _ => "AB"
  | .mov _ _ => "MOV"
  | .movb _ _ => "MOVB"
  | .soc _ _ => "SOC"
  | .socb _ _ => "SOCB"

/-- The operand field of an instruction at a location, operands in the order of its format, source first (30_encoding.md
R112). LMF's order is general knowledge in R112 (PRESUMED, log 32). Immediates and addresses are written in hexadecimal, counts
and CRU displacements in decimal, none as a symbol, a character constant or an expression (DESIGN CHOICE, log 37). -/
def operandField (location : Word) (i : Instr) (ext : List Word) : String :=
  match i with
  | .szc gs gd | .szcb gs gd | .s gs gd | .sb gs gd | .c gs gd | .cb gs gd | .a gs gd | .ab gs gd | .mov gs gd
  | .movb gs gd | .soc gs gd | .socb gs gd =>
    let (source, rest) := general gs ext
    source ++ "," ++ (general gd rest).1
  | .jmp d | .jlt d | .jle d | .jeq d | .jhe d | .jgt d | .jne d | .jnc d | .joc d | .jno d | .jl d | .jh d
  | .jop d =>
    hexadecimal (location + 2 + 2 * d.signExtend 16)
  | .sbo d | .sbz d | .tb d => toString d.toInt
  | .coc g d | .czc g d | .xor g d | .mpy g d | .div g d => (general g ext).1 ++ "," ++ register d
  | .ldcr g c | .stcr g c | .xop g c => (general g ext).1 ++ "," ++ toString c.toNat
  | .sra w c | .srl w c | .sla w c | .src w c => register w ++ "," ++ toString c.toNat
  | .blwp g | .b g | .x g | .clr g | .neg g | .inv g | .inc g | .inct g | .dec g | .dect g | .bl g | .swpb g
  | .seto g | .abs g | .lds g | .ldd g => (general g ext).1
  | .li w | .ai w | .andi w | .ori w | .ci w => register w ++ "," ++ hexadecimal (ext.headD 0)
  | .lwpi | .limi => hexadecimal (ext.headD 0)
  | .stwp w | .stst w => register w
  | .lmf m w => register w ++ "," ++ toString m.toNat
  | .idle | .rset | .rtwp | .ckon | .ckof | .lrex => ""

/-- The machine-instruction statement of an instruction at a location: a blank where no label is, the operation code, a
blank, the operands (30_encoding.md R111). R111 allows more blanks, a label and a comment (DESIGN CHOICE, log 37). -/
def statement (location : Word) (a : Assembled) : String :=
  " " ++ mnemonic a.instr ++ " " ++ operandField location a.instr a.ext

end Sys2Proof.Assembler
end

