-- ==== Sys2Proof/Tests/Slice0.lean ====
section
/-! SUPPORT. The model's own tests: ill-formed terms refused, words of the spec decoded, single steps of the spec's vectors
(95_test_vectors.md), and for each statement with hypotheses a state and operands that meet them. -/

namespace Sys2Proof.Tests

open Sys2Proof Sys2Proof.Machine

/-! ## Well-formedness -/

/-- Register 0 as an index is refused, as a single operand, a source and a destination; the same terms with register 1 are not. -/
theorem test_index_register_zero_refused :
    GenAddr.wf (.idx 0) = false ∧ Instr.wf (.clr (.idx 0)) = false ∧ Instr.wf (.mov (.idx 0) (.reg 1)) = false ∧
    Instr.wf (.mov (.reg 1) (.idx 0)) = false ∧ Instr.wf (.mov (.idx 1) (.idx 15)) = true := by decide

/-- An assembled instruction with too few or too many extension words, or an ill-formed instruction, is refused. -/
theorem test_wrong_length_refused :
    Assembled.wf ⟨.li 4, []⟩ = false ∧ Assembled.wf ⟨.li 4, [1, 2]⟩ = false ∧ Assembled.wf ⟨.mov .sym .sym, [1]⟩ = false ∧
    Assembled.wf ⟨.rtwp, [1]⟩ = false ∧ Assembled.wf ⟨.clr (.idx 0), [1]⟩ = false ∧
    Assembled.wf ⟨.mov .sym .sym, [1, 2]⟩ = true := by decide

/-! ## Decoding: words written bit by bit from the op code map (30_encoding.md R99) -/

/-- Format VIII: immediate and internal register instructions (R89). -/
theorem test_decode_format_viii :
    decodeWord 0b0000001000000101 = .ok (.li 5) ∧
    decodeWord 0b0000001000101000 = .ok (.ai 8) ∧
    decodeWord 0b0000001001001011 = .ok (.andi 11) ∧
    decodeWord 0b0000001001101110 = .ok (.ori 14) ∧
    decodeWord 0b0000001010000001 = .ok (.ci 1) ∧
    decodeWord 0b0000001010100100 = .ok (.stwp 4) ∧
    decodeWord 0b0000001011000111 = .ok (.stst 7) ∧
    decodeWord 0b0000001011100000 = .ok .lwpi ∧
    decodeWord 0b0000001100000000 = .ok .limi := by decide

/-- Format X: the map file instruction (R91). -/
theorem test_decode_format_x :
    decodeWord 0b0000001100111011 = .ok (.lmf 1 11) := by decide

/-- Format VII: control instructions (R88). -/
theorem test_decode_format_vii :
    decodeWord 0b0000001101000000 = .ok .idle ∧
    decodeWord 0b0000001101100000 = .ok .rset ∧
    decodeWord 0b0000001110000000 = .ok .rtwp ∧
    decodeWord 0b0000001110100000 = .ok .ckon ∧
    decodeWord 0b0000001111000000 = .ok .ckof ∧
    decodeWord 0b0000001111100000 = .ok .lrex := by decide

/-- Format VI: single address instructions (R87). -/
theorem test_decode_format_vi :
    decodeWord 0b0000010000011010 = .ok (.blwp (.ind 10)) ∧
    decodeWord 0b0000010001100000 = .ok (.b .sym) ∧
    decodeWord 0b0000010010100011 = .ok (.x (.idx 3)) ∧
    decodeWord 0b0000010011111100 = .ok (.clr (.inc 12)) ∧
    decodeWord 0b0000010100000101 = .ok (.neg (.reg 5)) ∧
    decodeWord 0b0000010101011010 = .ok (.inv (.ind 10)) ∧
    decodeWord 0b0000010110100000 = .ok (.inc .sym) ∧
    decodeWord 0b0000010111100011 = .ok (.inct (.idx 3)) ∧
    decodeWord 0b0000011000111100 = .ok (.dec (.inc 12)) ∧
    decodeWord 0b0000011001000101 = .ok (.dect (.reg 5)) ∧
    decodeWord 0b0000011010011010 = .ok (.bl (.ind 10)) ∧
    decodeWord 0b0000011011100000 = .ok (.swpb .sym) ∧
    decodeWord 0b0000011100100011 = .ok (.seto (.idx 3)) ∧
    decodeWord 0b0000011101111100 = .ok (.abs (.inc 12)) ∧
    decodeWord 0b0000011110000101 = .ok (.lds (.reg 5)) ∧
    decodeWord 0b0000011111011010 = .ok (.ldd (.ind 10)) := by decide

/-- Format V: shifts (R86). -/
theorem test_decode_format_v :
    decodeWord 0b0000100001011001 = .ok (.sra 9 5) ∧
    decodeWord 0b0000100110101001 = .ok (.srl 9 10) ∧
    decodeWord 0b0000101011111001 = .ok (.sla 9 15) ∧
    decodeWord 0b0000101101001001 = .ok (.src 9 4) := by decide

/-- Format II: jumps and CRU bits (R83). -/
theorem test_decode_format_ii :
    decodeWord 0b0001000011011011 = .ok (.jmp 0xDB) ∧
    decodeWord 0b0001000100000000 = .ok (.jlt 0x00) ∧
    decodeWord 0b0001001000100101 = .ok (.jle 0x25) ∧
    decodeWord 0b0001001101001010 = .ok (.jeq 0x4A) ∧
    decodeWord 0b0001010001101111 = .ok (.jhe 0x6F) ∧
    decodeWord 0b0001010110010100 = .ok (.jgt 0x94) ∧
    decodeWord 0b0001011010111001 = .ok (.jne 0xB9) ∧
    decodeWord 0b0001011111011110 = .ok (.jnc 0xDE) ∧
    decodeWord 0b0001100000000011 = .ok (.joc 0x03) ∧
    decodeWord 0b0001100100101000 = .ok (.jno 0x28) ∧
    decodeWord 0b0001101001001101 = .ok (.jl 0x4D) ∧
    decodeWord 0b0001101101110010 = .ok (.jh 0x72) ∧
    decodeWord 0b0001110010010111 = .ok (.jop 0x97) ∧
    decodeWord 0b0001110110111100 = .ok (.sbo 0xBC) ∧
    decodeWord 0b0001111011100001 = .ok (.sbz 0xE1) ∧
    decodeWord 0b0001111100000110 = .ok (.tb 0x06) := by decide

/-- Format III: logical operations (R84). -/
theorem test_decode_format_iii :
    decodeWord 0b0010000000100000 = .ok (.coc .sym 0) ∧
    decodeWord 0b0010010011100011 = .ok (.czc (.idx 3) 3) ∧
    decodeWord 0b0010100110111100 = .ok (.xor (.inc 12) 6) := by decide

/-- Format IX: multiply, divide, extended operation (R90). -/
theorem test_decode_format_ix :
    decodeWord 0b0010111001000101 = .ok (.xop (.reg 5) 9) ∧
    decodeWord 0b0011100010100011 = .ok (.mpy (.idx 3) 2) ∧
    decodeWord 0b0011110101111100 = .ok (.div (.inc 12) 5) := by decide

/-- Format IV: multiple bit CRU (R85). -/
theorem test_decode_format_iv :
    decodeWord 0b0011001100011010 = .ok (.ldcr (.ind 10) 12) ∧
    decodeWord 0b0011011111100000 = .ok (.stcr .sym 15) := by decide

/-- Format I: two address instructions (R82). -/
theorem test_decode_format_i :
    decodeWord 0b0100011010000101 = .ok (.szc (.reg 5) (.ind 10)) ∧
    decodeWord 0b0101100011011010 = .ok (.szcb (.ind 10) (.idx 3)) ∧
    decodeWord 0b0110000101100000 = .ok (.s .sym (.reg 5)) ∧
    decodeWord 0b0111100000100011 = .ok (.sb (.idx 3) .sym) ∧
    decodeWord 0b1000111100111100 = .ok (.c (.inc 12) (.inc 12)) ∧
    decodeWord 0b1001011010000101 = .ok (.cb (.reg 5) (.ind 10)) ∧
    decodeWord 0b1010100011011010 = .ok (.a (.ind 10) (.idx 3)) ∧
    decodeWord 0b1011000101100000 = .ok (.ab .sym (.reg 5)) ∧
    decodeWord 0b1100100000100011 = .ok (.mov (.idx 3) .sym) ∧
    decodeWord 0b1101111100111100 = .ok (.movb (.inc 12) (.inc 12)) ∧
    decodeWord 0b1110011010000101 = .ok (.soc (.reg 5) (.ind 10)) ∧
    decodeWord 0b1111100011011010 = .ok (.socb (.ind 10) (.idx 3)) := by decide

/-- Words outside the op code map and words with a one outside every field are refused by name (30_encoding.md R108, R109). -/
theorem test_decode_refused :
    decodeWord 0x0000 = .error .undefinedOpcode ∧ decodeWord 0x01FF = .error .undefinedOpcode ∧
    decodeWord 0x0C00 = .error .undefinedOpcode ∧ decodeWord 0x0FFF = .error .undefinedOpcode ∧
    decodeWord 0x0210 = .error .reservedField ∧ decodeWord 0x02E1 = .error .reservedField ∧
    decodeWord 0x0381 = .error .reservedField ∧ decodeWord 0x03FF = .error .reservedField := by decide

/-- Extension words follow in the order source, destination (30_encoding.md R93); too few bytes are refused. -/
theorem test_decode_extension_words :
    decode [0xC8, 0x20, 0x12, 0x34, 0x56, 0x78, 0x9A] = .ok ⟨.mov .sym .sym, [0x1234, 0x5678]⟩ ∧
    decode [0xC8, 0x20, 0x12, 0x34, 0x56] = .error .truncated ∧ decode [0xC8] = .error .truncated := by decide

/-- The host's numbering: the first word in bits 15 to 0, the immediate operand in bits 31 to 16. -/
theorem test_decode_table_word : decodeTableWord 32 0xAD450204 = some (.li 4) ∧ decodeTableWord 16 0x0C00 = none := by decide

/-! ## Single steps: the vectors of 95_test_vectors.md, named by their ids -/

/-- The machine of the vectors: WP = 0100, PC = 0300, the given ST and words of memory. -/
def machine (v : Config.Variant) (st : Word) (ws : List (Nat × Word)) : State :=
  { State.reset with
    plat := { Config.resetPlatform with variant := v }
    wp := 0x0100
    pc := 0x0300
    st := st
    mem := ws.foldl (fun m x => m.setWord x.1 x.2) [] }

/-- What a vector names of a next state: WP, PC, ST and words of memory. -/
def seen (words : List Nat) : Host.Outcome State Fault Refusal → Option (Word × Word × Word × List Word)
  | .next s => some (s.wp, s.pc, s.st, words.map s.mem.word)
  | _ => none

/-- The latches and the outputs of a next state, oldest first: ERR, IDLE, CLKEN, events. -/
def latches : Host.Outcome State Fault Refusal → Option (Bool × Bool × Bool × List Event)
  | .next s => some (s.err, s.idle, s.clken, s.events.reverse)
  | _ => none

theorem test_a_A3 :
    seen [0x0104] (step (machine (.m990_10 false) 0x0000 [(0x0300, 0xA081), (0x0102, 0x8000), (0x0104, 0x8000)])) =
      some (0x0100, 0x0302, 0x3800, [0x0000]) := by decide
theorem test_a_A6 :
    seen [0x0406] (step (machine (.m990_10 false) 0x0000 [(0x0300, 0xA8E0), (0x0302, 0x0400), (0x0304, 0x0402), (0x0106, 0x0004), (0x0400, 0x1234), (0x0406, 0x0111)])) =
      some (0x0100, 0x0306, 0xC000, [0x1345]) := by decide
theorem test_ab_A10 :
    seen [0x0102, 0x0402] (step (machine (.m990_10 false) 0x0000 [(0x0300, 0xB831), (0x0302, 0x0403), (0x0102, 0x0401), (0x0400, 0x1180), (0x0402, 0x2280)])) =
      some (0x0100, 0x0304, 0x3800, [0x0402, 0x2200]) := by decide
theorem test_ai_A13 :
    seen [0x010C] (step (machine (.m990_10 false) 0x0000 [(0x0300, 0x0226), (0x0302, 0x7FFF), (0x010C, 0x0001)])) =
      some (0x0100, 0x0304, 0x8800, [0x8000]) := by decide
theorem test_s_A16 :
    seen [0x0104] (step (machine (.m990_10 false) 0x0000 [(0x0300, 0x6081), (0x0102, 0x0001), (0x0104, 0x8000)])) =
      some (0x0100, 0x0302, 0xD800, [0x7FFF]) := by decide
theorem test_s_A15 :
    seen [0x0104] (step (machine (.m990_10 false) 0x0000 [(0x0300, 0x6081), (0x0102, 0x0001)])) =
      some (0x0100, 0x0302, 0x8000, [0xFFFF]) := by decide
theorem test_sb_A21 :
    seen [0x010A] (step (machine (.m990_10 false) 0x0000 [(0x0300, 0x7141), (0x0102, 0x0100), (0x010A, 0x8034)])) =
      some (0x0100, 0x0302, 0xDC00, [0x7F34]) := by decide
theorem test_mpy_A23 :
    seen [0x0104, 0x0106] (step (machine (.m990_10 false) 0xFC00 [(0x0300, 0x3881), (0x0102, 0xFFFF), (0x0104, 0xFFFF), (0x0106, 0x1111)])) =
      some (0x0100, 0x0302, 0xFC00, [0xFFFE, 0x0001]) := by decide
theorem test_mpy_A26 :
    seen [0x011E, 0x0120] (step (machine (.m990_10 false) 0x0000 [(0x0300, 0x3BE0), (0x0302, 0x0400), (0x011E, 0x0010), (0x0400, 0x1000), (0x0120, 0xAAAA)])) =
      some (0x0100, 0x0304, 0x0000, [0x0001, 0x0000]) := by decide
theorem test_div_A27 :
    seen [0x0104, 0x0106] (step (machine (.m990_10 false) 0x0000 [(0x0300, 0x3C81), (0x0102, 0x0002), (0x0104, 0x0001), (0x0106, 0x0001)])) =
      some (0x0100, 0x0302, 0x0000, [0x8000, 0x0001]) := by decide
theorem test_div_A29 :
    seen [] (step (machine (.m990_10 false) 0x0000 [(0x0300, 0x3C81), (0x0102, 0x0002), (0x0104, 0x0002)])) =
      some (0x0100, 0x0302, 0x0800, []) := by decide
theorem test_inc_A33 :
    seen [0x0102] (step (machine (.m990_10 false) 0x0000 [(0x0300, 0x0581), (0x0102, 0x7FFF)])) =
      some (0x0100, 0x0302, 0x8800, [0x8000]) := by decide
theorem test_inct_A35 :
    seen [0x0102] (step (machine (.m990_10 false) 0x0000 [(0x0300, 0x05C1), (0x0102, 0x7FFE)])) =
      some (0x0100, 0x0302, 0x8800, [0x8000]) := by decide
theorem test_dec_A39 :
    seen [0x0106] (step (machine (.m990_10 false) 0x0000 [(0x0300, 0x0603), (0x0106, 0x8000)])) =
      some (0x0100, 0x0302, 0xD800, [0x7FFF]) := by decide
theorem test_dect_A43 :
    seen [0x010C] (step (machine (.m990_10 false) 0x0000 [(0x0300, 0x0646), (0x010C, 0x8001)])) =
      some (0x0100, 0x0302, 0xD800, [0x7FFF]) := by decide
theorem test_neg_A48 :
    seen [0x0102] (step (machine (.m990_10 false) 0x1000 [(0x0300, 0x0501), (0x0102, 0x0001)])) =
      some (0x0100, 0x0302, 0x9000, [0xFFFF]) := by decide
theorem test_neg_A50 :
    seen [0x0102] (step (machine (.m990_10 false) 0x0000 [(0x0300, 0x0501), (0x0102, 0x8000)])) =
      some (0x0100, 0x0302, 0x8800, [0x8000]) := by decide
theorem test_c_C2 :
    seen [] (step (machine (.m990_10 false) 0x1C00 [(0x0300, 0x8081), (0x0102, 0x8000), (0x0104, 0x7FFF)])) =
      some (0x0100, 0x0302, 0x9C00, []) := by decide
theorem test_cb_C6 :
    seen [] (step (machine (.m990_10 false) 0x0000 [(0x0300, 0x9081), (0x0102, 0x80FF), (0x0104, 0x7F00)])) =
      some (0x0100, 0x0302, 0x8400, []) := by decide
theorem test_ci_C10 :
    seen [] (step (machine (.m990_10 false) 0x0000 [(0x0300, 0x0285), (0x010A, 0xFFFF)])) =
      some (0x0100, 0x0304, 0x8000, []) := by decide
theorem test_coc_C13 :
    seen [] (step (machine (.m990_10 false) 0xE000 [(0x0300, 0x2081), (0x0102, 0xC000), (0x0104, 0x7123)])) =
      some (0x0100, 0x0302, 0xC000, []) := by decide
theorem test_coc_C14 :
    seen [] (step (machine (.m990_10 false) 0x0000 [(0x0300, 0x2081), (0x0104, 0x7123)])) =
      some (0x0100, 0x0302, 0x2000, []) := by decide
theorem test_czc_C16 :
    seen [] (step (machine (.m990_10 false) 0x2000 [(0x0300, 0x2481), (0x0102, 0x00FF), (0x0104, 0xF101)])) =
      some (0x0100, 0x0302, 0x0000, []) := by decide
theorem test_andi_L2 :
    seen [0x010E] (step (machine (.m990_10 false) 0x1C00 [(0x0300, 0x0247), (0x0302, 0x0FF0), (0x010E, 0xF00F)])) =
      some (0x0100, 0x0304, 0x3C00, [0x0000]) := by decide
theorem test_ori_L3 :
    seen [0x010E] (step (machine (.m990_10 false) 0x0000 [(0x0300, 0x0267), (0x0302, 0x8000), (0x010E, 0x0001)])) =
      some (0x0100, 0x0304, 0x8000, [0x8001]) := by decide
theorem test_xor_L7 :
    seen [0x0102, 0x0104] (step (machine (.m990_10 false) 0x0000 [(0x0300, 0x28B1), (0x0102, 0x0400), (0x0104, 0xFFFF), (0x0400, 0x00FF)])) =
      some (0x0100, 0x0302, 0x8000, [0x0402, 0xFF00]) := by decide
theorem test_inv_L10 :
    seen [0x0102] (step (machine (.m990_10 false) 0x0000 [(0x0300, 0x0541), (0x0102, 0x8000)])) =
      some (0x0100, 0x0302, 0xC000, [0x7FFF]) := by decide
theorem test_clr_L12 :
    seen [0x0106, 0x0400] (step (machine (.m990_10 false) 0x8000 [(0x0300, 0x04F3), (0x0106, 0x0400), (0x0400, 0xBEEF)])) =
      some (0x0100, 0x0302, 0x8000, [0x0402, 0x0000]) := by decide
theorem test_seto_L13 :
    seen [0x0106] (step (machine (.m990_10 false) 0x2000 [(0x0300, 0x0703)])) =
      some (0x0100, 0x0302, 0x2000, [0xFFFF]) := by decide
theorem test_soc_L14 :
    seen [0x0102, 0x0400] (step (machine (.m990_10 false) 0x0000 [(0x0300, 0xEC46), (0x010C, 0x3030), (0x0102, 0x0400), (0x0400, 0x0902)])) =
      some (0x0100, 0x0302, 0xC000, [0x0402, 0x3932]) := by decide
theorem test_socb_L18 :
    seen [0x0104] (step (machine (.m990_10 false) 0x0000 [(0x0300, 0xF081), (0x0102, 0x8000), (0x0104, 0x0134)])) =
      some (0x0100, 0x0302, 0x8000, [0x8134]) := by decide
theorem test_szc_L21 :
    seen [0x0104] (step (machine (.m990_10 false) 0x0000 [(0x0300, 0x4081), (0x0102, 0x7FFF), (0x0104, 0x8234)])) =
      some (0x0100, 0x0302, 0x8000, [0x8000]) := by decide
theorem test_szcb_L22 :
    seen [0x0106] (step (machine (.m990_10 false) 0x0000 [(0x0300, 0x50C5), (0x010A, 0xF0F0), (0x0106, 0x1277)])) =
      some (0x0100, 0x0302, 0xC400, [0x0277]) := by decide
theorem test_sra_S3 :
    seen [0x0102] (step (machine (.m990_10 false) 0x0000 [(0x0300, 0x08F1), (0x0102, 0x8000)])) =
      some (0x0100, 0x0302, 0x8000, [0xFFFF]) := by decide
theorem test_sra_S4 :
    seen [0x0102] (step (machine (.m990_10 false) 0x0000 [(0x0300, 0x0801), (0x0102, 0x8000)])) =
      some (0x0100, 0x0302, 0x9000, [0xFFFF]) := by decide
theorem test_srl_S9 :
    seen [0x0102] (step (machine (.m990_10 false) 0x0000 [(0x0300, 0x0901), (0x0100, 0x0010), (0x0102, 0x8000)])) =
      some (0x0100, 0x0302, 0x3000, [0x0000]) := by decide
theorem test_srl_S26 :
    seen [0x0100] (step (machine (.m990_10 false) 0x0000 [(0x0300, 0x0900), (0x0100, 0x8004)])) =
      some (0x0100, 0x0302, 0xC000, [0x0800]) := by decide
theorem test_sla_S16 :
    seen [0x0102] (step (machine (.m990_10 false) 0x0000 [(0x0300, 0x0A21), (0x0102, 0xD000)])) =
      some (0x0100, 0x0302, 0xD800, [0x4000]) := by decide
theorem test_sla_S18 :
    seen [0x0102] (step (machine (.m990_10 false) 0x0000 [(0x0300, 0x0A01), (0x0102, 0x0001)])) =
      some (0x0100, 0x0302, 0x3800, [0x0000]) := by decide
theorem test_src_S22 :
    seen [0x0102] (step (machine (.m990_10 false) 0x0000 [(0x0300, 0x0B41), (0x0102, 0x1234)])) =
      some (0x0100, 0x0302, 0xC000, [0x4123]) := by decide
theorem test_src_S24 :
    seen [0x0102] (step (machine (.m990_10 false) 0x0000 [(0x0300, 0x0B01), (0x0102, 0x8001)])) =
      some (0x0100, 0x0302, 0x9000, [0x8001]) := by decide
theorem test_b_B3 :
    seen [] (step (machine (.m990_10 false) 0x0000 [(0x0300, 0x0460), (0x0302, 0x0101)])) =
      some (0x0100, 0x0100, 0x0000, []) := by decide
theorem test_b_B4 :
    seen [] (step (machine (.m990_10 false) 0x0000 [(0x0300, 0x0443), (0x0106, 0x1000)])) =
      some (0x0100, 0x0106, 0x0000, []) := by decide
theorem test_bl_B7 :
    seen [0x0116] (step (machine (.m990_10 false) 0x0000 [(0x0300, 0x069B), (0x0116, 0x0600)])) =
      some (0x0100, 0x0600, 0x0000, [0x0302]) := by decide
theorem test_blwp_B12 :
    seen [0x011A, 0x011C, 0x011E] (step (machine (.m990_10 false) 0x2002 [(0x0300, 0x0405), (0x010A, 0x0100), (0x010C, 0x0900)])) =
      some (0x0100, 0x0900, 0x2002, [0x0100, 0x0302, 0x2002]) := by decide
theorem test_blwp_B13 :
    seen [0x000A, 0x000C, 0x000E] (step (machine (.m990_10 false) 0x0001 [(0x0300, 0x0420), (0x0302, 0x0400), (0x0400, 0xFFF0), (0x0402, 0x0800)])) =
      some (0xFFF0, 0x0800, 0x0001, [0x0100, 0x0304, 0x0001]) := by decide
theorem test_rtwp_B14 :
    seen [] (step (machine (.m990_10 false) 0x0000 [(0x0300, 0x0380), (0x011A, 0x0200), (0x011C, 0x0801), (0x011E, 0xFFFF)])) =
      some (0x0200, 0x0800, 0xFF0F, []) := by decide
theorem test_rtwp_B15 :
    seen [] (step (machine (.m990_10 false) 0x0102 [(0x0300, 0x0380), (0x011A, 0x0200), (0x011C, 0x0800), (0x011E, 0xFE8F)])) =
      some (0x0200, 0x0800, 0xFF02, []) := by decide
theorem test_x_B19 :
    seen [0x0106] (step (machine (.m990_10 false) 0x0000 [(0x0300, 0x04A0), (0x0302, 0x0400), (0x0304, 0x0005), (0x0400, 0x0223)])) =
      some (0x0100, 0x0306, 0xC000, [0x0005]) := by decide
theorem test_jmp_J3 :
    seen [] (step (machine (.m990_10 false) 0x0000 [(0x0300, 0x1080)])) =
      some (0x0100, 0x0202, 0x0000, []) := by decide
theorem test_li_M1 :
    seen [0x0108] (step (machine (.m990_10 false) 0x3C0F [(0x0300, 0x0204), (0x0302, 0xAD45)])) =
      some (0x0100, 0x0304, 0x9C0F, [0xAD45]) := by decide
theorem test_limi_M5 :
    seen [] (step (machine (.m990_10 false) 0x000F [(0x0300, 0x0300), (0x0302, 0xFFF3)])) =
      some (0x0100, 0x0304, 0x0003, []) := by decide
theorem test_lwpi_M7 :
    seen [] (step (machine (.m990_10 false) 0x0000 [(0x0300, 0x02E0), (0x0302, 0x0201)])) =
      some (0x0201, 0x0304, 0x0000, []) := by decide
theorem test_mov_M14 :
    seen [0x0102] (step (machine (.m990_10 false) 0x0000 [(0x0300, 0xC061), (0x0302, 0x0002), (0x0102, 0x0400), (0x0402, 0x7777)])) =
      some (0x0100, 0x0304, 0xC000, [0x7777]) := by decide
theorem test_movb_M15 :
    seen [0x042E] (step (machine (.m990_10 false) 0x0000 [(0x0300, 0xD803), (0x0302, 0x042F), (0x0106, 0x0099), (0x042E, 0x0935)])) =
      some (0x0100, 0x0304, 0x2000, [0x0900]) := by decide
theorem test_swpb_M20 :
    seen [0x0400] (step (machine (.m990_10 false) 0x0000 [(0x0300, 0x06E0), (0x0302, 0x0400), (0x0400, 0x00FF)])) =
      some (0x0100, 0x0304, 0x0000, [0xFF00]) := by decide
theorem test_stst_M21 :
    seen [0x010E] (step (machine (.m990_10 false) 0xD40F [(0x0300, 0x02C7)])) =
      some (0x0100, 0x0302, 0xD40F, [0xD40F]) := by decide
theorem test_sbo_U7 :
    latches (step (machine (.m990_10 false) 0x0000 [(0x0300, 0x1D01), (0x0118, 0xFFFF)])) =
      some (false, false, false, [.cruOut 0x000 true]) := by decide
theorem test_sbz_U2 :
    latches (step (machine (.m990_10 false) 0x0000 [(0x0300, 0x1E0A), (0x0118, 0x0040)])) =
      some (false, false, false, [.cruOut 0x02A false]) := by decide
theorem test_ldcr_U14 :
    latches (step (machine (.m990_10 false) 0x0000 [(0x0300, 0x30C1), (0x0118, 0x0100), (0x0102, 0xFD00)])) =
      some (false, false, false, [.cruOut 0x080 true, .cruOut 0x081 false, .cruOut 0x082 true]) := by decide
theorem test_xop_X2 :
    seen [0x0102, 0x0216, 0x021A, 0x021C, 0x021E] (step (machine (.m990_10 false) 0x0105 [(0x0300, 0x2CB1), (0x0102, 0x0500), (0x0048, 0x0200), (0x004A, 0x0801)])) =
      some (0x0200, 0x0800, 0x0205, [0x0502, 0x0500, 0x0100, 0x0302, 0x0105]) := by decide
theorem test_xop_X4 :
    seen [0x0116, 0x011A, 0x011C, 0x011E] (step (machine (.m990_10 false) 0x0000 [(0x0300, 0x2C62), (0x0302, 0x0004), (0x0104, 0x0500), (0x0044, 0x0100), (0x0046, 0x0900)])) =
      some (0x0100, 0x0900, 0x0200, [0x0504, 0x0100, 0x0304, 0x0000]) := by decide
theorem test_idle_K1 :
    latches (step (machine (.m990_10 false) 0x0002 [(0x0300, 0x0340)])) =
      some (false, true, false, []) := by decide
theorem test_rset_K4 :
    latches (step { machine (.m990_10 false) 0xD00F [(0x0300, 0x0360)] with clken := true }) =
      some (false, false, false, [.signal .rset]) := by decide
theorem test_rset_K4_context :
    seen [] (step { machine (.m990_10 false) 0xD00F [(0x0300, 0x0360)] with clken := true }) =
      some (0x0100, 0x0302, 0xD000, []) := by decide
theorem test_ckon_K7 :
    latches (step (machine (.m990_10 false) 0x000F [(0x0300, 0x03A0)])) =
      some (false, false, true, []) := by decide
theorem test_ckof_K8 :
    latches (step { machine (.m990_10 false) 0x000F [(0x0300, 0x03C0)] with clken := true }) =
      some (false, false, false, []) := by decide
theorem test_lrex_K11 :
    latches (step (machine (.m990_10 false) 0xD00F [(0x0300, 0x03E0), (0xFFFC, 0x0200), (0xFFFE, 0x0800)])) =
      some (false, false, false, []) := by decide
theorem test_lrex_K11_context :
    seen [0x021A, 0x021C, 0x021E] (step (machine (.m990_10 false) 0xD00F [(0x0300, 0x03E0), (0xFFFC, 0x0200), (0xFFFE, 0x0800)])) =
      some (0x0200, 0x0800, 0xD000, [0x0100, 0x0302, 0xD00F]) := by decide
theorem test_interrupt_I2 :
    seen [0x0102] (step { machine (.m990_10 false) 0x0007 [(0x0300, 0x0581), (0x0020, 0x0200), (0x0022, 0x0800)] with irq := 0x0100 }) =
      some (0x0100, 0x0302, 0xC007, [0x0001]) := by decide
theorem test_interrupt_I3 :
    seen [0x021A, 0x021C, 0x021E] (step { machine (.m990_10 false) 0x0008 [(0x0300, 0x0581), (0x0020, 0x0200), (0x0022, 0x0800)] with irq := 0x0100 }) =
      some (0x0200, 0x0800, 0x0007, [0x0100, 0x0300, 0x0008]) := by decide
theorem test_interrupt_I5 :
    seen [0x021A, 0x021C, 0x021E] (step { machine (.m990_10 false) 0xFF00 [(0x0300, 0x0581), (0x0000, 0x0200), (0x0002, 0x0800)] with irq := 0x0001 }) =
      some (0x0200, 0x0800, 0xFE00, [0x0100, 0x0300, 0xFF00]) := by decide
theorem test_stwp_M23 :
    seen [0x0104] (step { machine (.m990_10 false) 0x0000 [(0x0300, 0x02A2)] with wp := 0x0101 }) =
      some (0x0101, 0x0302, 0x0000, [0x0101]) := by decide
theorem test_x_B24 : step (machine (.m990_10 false) 0x0000 [(0x0300, 0x0489), (0x0112, 0x0489)]) = .refused .nestedExecute := rfl
/-- ABS, vector A46; its carry is free (log 8). -/
theorem test_abs_A46 :
    seen [0x0102] (step (machine (.m990_10 false) 0x0000 [(0x0300, 0x0741), (0x0102, 0x8000)])) =
      some (0x0100, 0x0302, setFlag .c (Config.absCarry 0x8000) 0x8800, [0x8000]) := rfl

/-- Where each jump with displacement 5 goes from each status of the spec's jump table. -/
def jumpTo (op st : Word) : Option Word :=
  (seen [] (step (machine (.m990_10 false) st [(0x0300, op + 5)]))).map fun x => x.2.1

theorem test_jmp_table : [0x0000, 0x8000, 0x4000, 0xC000, 0x2000, 0x1000, 0x0800, 0x0400].map (jumpTo 0x1000) =
    [0x030C, 0x030C, 0x030C, 0x030C, 0x030C, 0x030C, 0x030C, 0x030C].map some := by decide
theorem test_jlt_table : [0x0000, 0x8000, 0x4000, 0xC000, 0x2000, 0x1000, 0x0800, 0x0400].map (jumpTo 0x1100) =
    [0x030C, 0x030C, 0x0302, 0x0302, 0x0302, 0x030C, 0x030C, 0x030C].map some := by decide
theorem test_jle_table : [0x0000, 0x8000, 0x4000, 0xC000, 0x2000, 0x1000, 0x0800, 0x0400].map (jumpTo 0x1200) =
    [0x030C, 0x0302, 0x030C, 0x0302, 0x030C, 0x030C, 0x030C, 0x030C].map some := by decide
theorem test_jeq_table : [0x0000, 0x8000, 0x4000, 0xC000, 0x2000, 0x1000, 0x0800, 0x0400].map (jumpTo 0x1300) =
    [0x0302, 0x0302, 0x0302, 0x0302, 0x030C, 0x0302, 0x0302, 0x0302].map some := by decide
theorem test_jhe_table : [0x0000, 0x8000, 0x4000, 0xC000, 0x2000, 0x1000, 0x0800, 0x0400].map (jumpTo 0x1400) =
    [0x0302, 0x030C, 0x0302, 0x030C, 0x030C, 0x0302, 0x0302, 0x0302].map some := by decide
theorem test_jgt_table : [0x0000, 0x8000, 0x4000, 0xC000, 0x2000, 0x1000, 0x0800, 0x0400].map (jumpTo 0x1500) =
    [0x0302, 0x0302, 0x030C, 0x030C, 0x0302, 0x0302, 0x0302, 0x0302].map some := by decide
theorem test_jne_table : [0x0000, 0x8000, 0x4000, 0xC000, 0x2000, 0x1000, 0x0800, 0x0400].map (jumpTo 0x1600) =
    [0x030C, 0x030C, 0x030C, 0x030C, 0x0302, 0x030C, 0x030C, 0x030C].map some := by decide
theorem test_jnc_table : [0x0000, 0x8000, 0x4000, 0xC000, 0x2000, 0x1000, 0x0800, 0x0400].map (jumpTo 0x1700) =
    [0x030C, 0x030C, 0x030C, 0x030C, 0x030C, 0x0302, 0x030C, 0x030C].map some := by decide
theorem test_joc_table : [0x0000, 0x8000, 0x4000, 0xC000, 0x2000, 0x1000, 0x0800, 0x0400].map (jumpTo 0x1800) =
    [0x0302, 0x0302, 0x0302, 0x0302, 0x0302, 0x030C, 0x0302, 0x0302].map some := by decide
theorem test_jno_table : [0x0000, 0x8000, 0x4000, 0xC000, 0x2000, 0x1000, 0x0800, 0x0400].map (jumpTo 0x1900) =
    [0x030C, 0x030C, 0x030C, 0x030C, 0x030C, 0x030C, 0x0302, 0x030C].map some := by decide
theorem test_jl_table : [0x0000, 0x8000, 0x4000, 0xC000, 0x2000, 0x1000, 0x0800, 0x0400].map (jumpTo 0x1A00) =
    [0x030C, 0x0302, 0x030C, 0x0302, 0x0302, 0x030C, 0x030C, 0x030C].map some := by decide
theorem test_jh_table : [0x0000, 0x8000, 0x4000, 0xC000, 0x2000, 0x1000, 0x0800, 0x0400].map (jumpTo 0x1B00) =
    [0x0302, 0x030C, 0x0302, 0x030C, 0x0302, 0x0302, 0x0302, 0x0302].map some := by decide
theorem test_jop_table : [0x0000, 0x8000, 0x4000, 0xC000, 0x2000, 0x1000, 0x0800, 0x0400].map (jumpTo 0x1C00) =
    [0x0302, 0x0302, 0x0302, 0x0302, 0x0302, 0x0302, 0x0302, 0x030C].map some := by decide

/-! ## The map option (45_load_move.md R224, 48_xop_longdistance.md R275 to R278) -/

/-- LMF, vector G1. -/
theorem test_lmf_G1 :
    (match step (machine (.m990_10 true) 0 [(0x0300, 0x0333), (0x0106, 0x2000), (0x2000, 0xEF00), (0x2004, 0x5F00),
        (0x2006, 0x188F), (0x2008, 0x0800), (0x200A, 0x2000)]) with
      | .next s => some (s.pc, s.map1, s.map0)
      | _ => none) = some (0x0302, ⟨0xEF00, 0, 0x5F00, 0x188F, 0x0800, 0x2000⟩, .identity) := by decide

/-- LDS, the first instruction of vector G3. -/
theorem test_lds_G3 :
    (match step (machine (.m990_10 true) 0 [(0x0300, 0x07A0), (0x0302, 0x3000), (0x3002, 0x4000), (0x3004, 0xFFFF),
        (0x3008, 0xFFFF)]) with
      | .next s => some (s.pc, s.ld, s.map2)
      | _ => none) = some (0x0304, .src, ⟨0, 0x4000, 0xFFFF, 0, 0xFFFF, 0⟩) := by decide

/-- MOV after LDS, the second instruction of vector G3: the source at physical 081000, the destination a register. -/
theorem test_mov_after_lds_G3 :
    seen [0x0102, 0x1000] (step { machine (.m990_10 true) 0 [(0x0300, 0xC060), (0x0302, 0x1000), (0x81000, 0x1234),
        (0x1000, 0x5678)] with ld := .src, map2 := ⟨0, 0x4000, 0xFFFF, 0, 0xFFFF, 0⟩ }) =
      some (0x0100, 0x0304, 0xC000, [0x1234, 0x5678]) := by decide

/-- LDD, the first instruction of vector G4. -/
theorem test_ldd_G4 :
    (match step (machine (.m990_10 true) 0 [(0x0300, 0x07E0), (0x0302, 0x3000), (0x3002, 0x4000), (0x3004, 0xFFFF),
        (0x3008, 0xFFFF)]) with
      | .next s => some (s.pc, s.ld, s.map2)
      | _ => none) = some (0x0304, .dst, ⟨0, 0x4000, 0xFFFF, 0, 0xFFFF, 0⟩) := by decide

/-- MOV after LDD, the second instruction of vector G4. -/
theorem test_mov_after_ldd_G4 :
    seen [0x81000, 0x1000] (step { machine (.m990_10 true) 0 [(0x0300, 0xC801), (0x0302, 0x1000), (0x0102, 0xABCD)] with
        ld := .dst, map2 := ⟨0, 0x4000, 0xFFFF, 0, 0xFFFF, 0⟩ }) =
      some (0x0100, 0x0304, 0x8000, [0xABCD, 0]) := by decide

/-- TB, vector U3, for either answer of the line: EQ is the bit that CRU line 024 gave. -/
theorem test_tb_U3 :
    ((seen [] (step (machine (.m990_10 false) 0 [(0x0300, 0x1F04), (0x0118, 0x0040)]))).map fun x => flag .eq x.2.2.1) =
      some (Config.cruInput 0 0x024) := by
  show some (flag .eq (setFlag .eq (Config.cruInput 0 0x024) 0)) = _
  cases Config.cruInput 0 0x024 <;> rfl

/-- STCR, vector U22: three lines ascending from 010 are read into a byte. -/
theorem test_stcr_U22 :
    (latches (step (machine (.m990_10 false) 0 [(0x0300, 0x34C1), (0x0118, 0x0020), (0x0102, 0xFFFF)]))).map (fun x => x.2.2.2) =
      some [.cruIn 0x010 (Config.cruInput 0 0x010), .cruIn 0x011 (Config.cruInput 1 0x011),
        .cruIn 0x012 (Config.cruInput 2 0x012)] := rfl

/-- An instruction placed for the next step is the one the step runs: LI R4,>AD45 from reset (vector M1's words). -/
theorem test_with_fetch_word :
    seen [0x0008] (step (State.reset.withFetchWord 32 0xAD450204)) = some (0, 4, 0x8000, [0xAD45]) := by decide

/-- Reset of a machine whose vector words are set (70_reset_and_hazards.md R340). -/
theorem test_power_on :
    seen [] (powerOn (machine (.m990_10 true) 0xD18F [(0x0000, 0x0200), (0x0002, 0x0801)])) =
      some (0x0200, 0x0800, 0xD000, []) := by decide

/-! ## Witnesses: for each statement with hypotheses, a state and operands that meet them together -/

/-- The state of most witnesses, as an instruction meets it after its own word is fetched: R1 = 0400, R2 = 0410, R3 = 0002,
R4 = 0000, R5 = 0001, R9 = INC R5, R12 = 0040, R13 to R15 a saved context; the word at PC is 0410. -/
def bench : State :=
  machine (.m990_10 true) 0x000F
    [(0x0102, 0x0400), (0x0104, 0x0410), (0x0106, 0x0002), (0x010A, 0x0001), (0x0112, 0x0585), (0x0118, 0x0040),
      (0x011A, 0x0200), (0x011C, 0x0800), (0x011E, 0xD10A), (0x0300, 0x0410), (0x0400, 0x8001), (0x0410, 0x0005)]

/-- The same in non-privileged state through map file 1. -/
def user : State := bench.setSt 0x0182

/-- The same with an environment that writes before the accesses: first R1's low byte, then the byte R1 then addresses, then
one that no instruction of these witnesses reads. -/
def busy : State := { bench with dmaEnv := [[⟨0x0103, 0x20⟩], [⟨0x0420, 0x12⟩, ⟨0x0420, 0x34⟩], [⟨0x0500, 0x56⟩]] }

/-- The environment writes between two accesses of one instruction (20_memory.md R74): MOV *R1,R2 reads R1 after the first turn
and the byte at 0420 after the last write of the second. -/
theorem test_environment_between_accesses :
    seen [0x0102, 0x0104, 0x0420, 0x0500] (exec (.mov (.ind 1) (.reg 2)) busy) =
      some (0x0100, 0x0300, 0xC00F, [0x0420, 0x3400, 0x3400, 0x5600]) := by decide

/-- ROM takes no byte that the environment writes (20_memory.md R52). -/
theorem test_environment_rom :
    (State.turn { bench with plat := { bench.plat with regions := [⟨0, 0x500, .ram⟩, ⟨0x500, 0x100, .rom⟩] }, dmaEnv := [[⟨0x0420, 0x12⟩, ⟨0x0500, 0x56⟩]] }).mem.word 0x0500 = 0 := by decide

/-- With no turns to come, no byte is written by the environment: the premise of the frames. -/
theorem witness_quiet : (∀ q, bench.Quiet q) ∧ (∀ q, user.Quiet q) ∧ busy.Quiet 0x0102 ∧ ¬ busy.Quiet 0x0103 := by
  refine ⟨fun _ _ h => by (cases h), fun _ _ h => by (cases h), ?_, fun h => ?_⟩
  · unfold State.Quiet; decide
  · exact h _ (.head _) _ (.head _) (by decide)

/-- Two word operands, read in turn, the second one's place accessible. -/
def TwoWords (gs gd : GenAddr) (s : State) (src dst : Word) : Prop :=
  ∃ s1 s2 sl dl k p, operandWord .src gs s = .ok ((sl, src), s1) ∧ operandWord .dst gd s1 = .ok ((dl, dst), s2) ∧
    place s2 dl.file (evenAddress dl.addr) = .ok (k, p)

/-- Two byte operands. -/
def TwoBytes (gs gd : GenAddr) (s : State) (src dst : Byte) : Prop :=
  ∃ s1 s2 sl dl k p, operandByte .src gs s = .ok ((sl, src), s1) ∧ operandByte .dst gd s1 = .ok ((dl, dst), s2) ∧
    place s2 dl.file dl.addr = .ok (k, p)

/-- One word operand. -/
def OneWord (g : GenAddr) (s : State) (a : Word) : Prop :=
  ∃ s1 l k p, operandWord .src g s = .ok ((l, a), s1) ∧ place s1 l.file (evenAddress l.addr) = .ok (k, p)

/-- One operand that is addressed only. -/
def OneAddress (g : GenAddr) (s : State) (a : Word) : Prop :=
  ∃ s1 l k p, operandAddress .src .word g s = .ok (l, s1) ∧ l.addr = a ∧ place s1 l.file (evenAddress l.addr) = .ok (k, p)

/-- An immediate operand and a register. -/
def Immediate (w : Reg) (s : State) (iop a : Word) : Prop :=
  ∃ s1 s2 k p, fetch s = .ok (iop, s1) ∧ readReg w s1 = .ok (a, s2) ∧
    place s2 (currentMap s2) (evenAddress (s2.wp + 2 * w.setWidth 16)) = .ok (k, p)

theorem two_words : TwoWords (.inc 1) .sym bench 0x8001 0x0005 := ⟨_, _, _, _, _, _, rfl, rfl, rfl⟩
theorem two_bytes : TwoBytes (.inc 1) .sym bench 0x80 0x00 := ⟨_, _, _, _, _, _, rfl, rfl, rfl⟩
theorem one_word : OneWord (.inc 1) bench 0x8001 := ⟨_, _, _, _, rfl, rfl⟩
theorem one_address : OneAddress (.inc 1) bench 0x0400 := ⟨_, _, _, _, rfl, rfl, rfl⟩
theorem immediate : Immediate 3 bench 0x0410 0x0002 := ⟨_, _, _, _, rfl, rfl, rfl⟩

theorem witness_InvariantKept :
    ∃ s t : State, s.Inv ∧ step s = .next t ∧ t.mem ≠ s.mem :=
  ⟨machine (.m990_10 true) 0 [(0x0300, 0xA081), (0x0102, 1)], _,
    ⟨by decide, by decide, by decide, by decide, by decide, by decide, by decide⟩, rfl, by decide⟩

theorem witness_DecodeEncodeAgree : Assembled.wf ⟨.mov .sym (.idx 15), [0xFFFF, 0x0000]⟩ = true := by decide
theorem witness_EncodeDecodeAgree : ∃ a, decode [0x07, 0xA0, 0x30, 0x00] = .ok a := ⟨⟨.lds .sym, [0x3000]⟩, by decide⟩

/-- The words 0C00 and 0FFF, the ends of a range of undefined op codes, are of no row; a state fetches the first one. -/
theorem witness_UndefinedOpcodes :
    (∀ i : Instr, (0x0C00 : Word) &&& (opcodeRow i).2 ≠ (opcodeRow i).1) ∧
    (∀ i : Instr, (0x0FFF : Word) &&& (opcodeRow i).2 ≠ (opcodeRow i).1) ∧
    ∃ s s1, pendingLevel (sampleInputs s) = none ∧ (sampleInputs s).idle = false ∧ fetch (sampleInputs s) = .ok (0x0C00, s1) :=
  ⟨fun i => by cases i <;> dsimp only [opcodeRow] <;> decide, fun i => by cases i <;> dsimp only [opcodeRow] <;> decide,
    machine .tms9900 0 [(0x0300, 0x0C00)], _, rfl, rfl, rfl⟩

theorem witness_StepRunsDecoded :
    ∃ s : State, pendingLevel (sampleInputs s) = none ∧ (sampleInputs s).idle = false ∧
      HoldsWord (sampleInputs s).turn (currentMap (sampleInputs s)) s.pc 0xA081 ∧ decodeWord 0xA081 = .ok (.a (.reg 1) (.reg 2)) :=
  ⟨machine .tms9900 0 [(0x0300, 0xA081)], rfl, rfl, ⟨.ram, 0x0300, rfl, by decide, by decide⟩, by decide⟩

theorem witness_BoundaryOutcome :
    pendingLevel (sampleInputs { bench with irqEnv := [⟨0x8000, false⟩] }) = some 15 ∧
    pendingLevel (sampleInputs { bench with irqEnv := [⟨0x8001, false⟩] }) = some 0 ∧
    pendingLevel (sampleInputs { bench with idle := true }) = none := by decide

/-- Levels at the ends of the mask, the error latch on level 2 and the clock on level 5. -/
theorem witness_LowestPendingLevel :
    pendingLevel { machine (.m990_10 true) 0 [] with irq := 0x8001 } = some 0 ∧
    pendingLevel { machine (.m990_10 true) 0x000F [] with irq := 0x8000 } = some 15 ∧
    pendingLevel { machine (.m990_10 true) 0x000E [] with irq := 0x8000 } = none ∧
    pendingLevel { machine (.m990_10 true) 0x0002 [] with err := true } = some 2 ∧
    pendingLevel { machine .m990_4 0x0005 [] with clk := true, clken := true } = some 5 := by decide

/-- The ends of the range of levels. -/
theorem witness_InterruptEntry :
    ∀ level ∈ [0, 15], ∃ s s1 s2 newWp newPc, Nonempty (SavePlaces s2 .zero newWp) ∧
      readWord .zero (BitVec.ofNat 16 (4 * level)) s = .ok (newWp, s1) ∧
      readWord .zero (BitVec.ofNat 16 (4 * level) + 2) s1 = .ok (newPc, s2) := by
  intro level h
  simp only [List.mem_cons, List.not_mem_nil, or_false] at h
  rcases h with rfl | rfl <;>
    exact ⟨user, _, _, _, _, ⟨⟨_, _, _, _, _, _, rfl, rfl, rfl⟩⟩, rfl, rfl⟩

theorem witness_ByteOrder : place bench .zero (0xFFFF &&& 0xFFFE) = .ok (.ram, 0xFFFE) := by decide

/-- RAM, ROM, device registers and no memory, a word apart. -/
def regions : State := bench.setMem [] |> fun s =>
  { s with plat := { s.plat with regions := [⟨0x1000, 2, .ram⟩, ⟨0x1002, 2, .rom⟩, ⟨0x1004, 2, .device⟩] } }

theorem witness_AccessesByKind :
    place regions .zero (0x1001 &&& 0xFFFE) = .ok (.ram, 0x1000) ∧ place regions .zero 0x1001 = .ok (.ram, 0x1001) ∧
    place regions .zero (0x1002 &&& 0xFFFE) = .ok (.rom, 0x1002) ∧ place regions .zero 0x1003 = .ok (.rom, 0x1003) ∧
    place regions .zero (0x1004 &&& 0xFFFE) = .ok (.device, 0x1004) ∧ place regions .zero 0x1005 = .ok (.device, 0x1005) ∧
    place regions .zero (0x0FFF &&& 0xFFFE) = .error (.fault .unpopulated) ∧
    place regions .zero 0x1006 = .error (.fault .unpopulated) ∧
    physical regions .zero 0x1006 = .ok 0x1006 ∧ regions.plat.kindAt 0x1006 = none ∧ regions.dmaEnv = [] ∧
    busy.dmaEnv = [⟨0x0103, 0x20⟩] :: [[⟨0x0420, 0x12⟩, ⟨0x0420, 0x34⟩], [⟨0x0500, 0x56⟩]] := by decide
theorem witness_AccessesByKind_quiet : regions.Quiet 0x1000 ∧ regions.Quiet (0x1000 + 1) ∧ regions.Quiet 0x1001 :=
  ⟨fun _ h => by (cases h), fun _ h => by (cases h), fun _ h => by (cases h)⟩

/-- The map of 20_memory.md R69 in file 1 (vector G1): the last address of each region, the first of the next, and both
sides of the last limit. -/
def figure : State := bench.setMap1 ⟨0xEF00, 0x0000, 0x5F00, 0x188F, 0x0800, 0x2000⟩

theorem witness_AddressTranslation :
    figure.plat.hasMap = true ∧ (machine .m990_4 0 []).plat.hasMap = false ∧
    (~~~(figure.mapFile .one).l1 ||| 0x001F).toNat = 0x10FF ∧
    (~~~(figure.mapFile .one).l2 ||| 0x001F).toNat = 0xA0FF ∧
    (~~~(figure.mapFile .one).l3 ||| 0x001F).toNat = 0xF7FF ∧
    physical figure .one 0x10FF = .ok 0x10FF ∧ physical figure .one 0x1100 = .ok (32 * 0x188F + 0x1100) ∧
    physical figure .one 0xA0FF = .ok (32 * 0x188F + 0xA0FF) ∧ physical figure .one 0xA100 = .ok (32 * 0x2000 + 0xA100) ∧
    physical figure .one 0xF7FF = .ok (32 * 0x2000 + 0xF7FF) ∧
    physical figure .one 0xF800 = .error (.fault .mapLimit) := by decide

theorem witness_MapFileChoice :
    LongDistance.src ≠ .none ∧ ((bench.setLd .src).ld = .src ∧ ∀ r, GenAddr.ind 0 ≠ .reg r) ∧
    ¬ ((bench.setLd .src).ld = .src ∧ ∀ r, GenAddr.reg 1 ≠ .reg r) ∧
    ¬ ((bench.setLd .src).ld = .dst ∧ ∀ r, GenAddr.ind 0 ≠ .reg r) := by
  refine ⟨by decide, ⟨rfl, fun r h => by cases h⟩, fun h => h.2 1 rfl, fun h => by cases h.1⟩

/-- Every mode at once: PC and the register of `bench` hold the addresses, and their sum is accessible too; and what `busy`
holds after its turns. -/
theorem witness_OperandModes :
    HoldsWord bench.turn (operandMap bench .src (.reg 1)) (bench.wp + 2 * (1 : Reg).setWidth 16) 0x0400 ∧
    HoldsByte bench.turn (operandMap bench .src (.reg 1)) (bench.wp + 2 * (1 : Reg).setWidth 16) 0x04 ∧
    HoldsWord bench.turn (currentMap bench) (bench.wp + 2 * (1 : Reg).setWidth 16) 0x0400 ∧
    HoldsWord bench.turn.turn (operandMap bench .src (.ind 1)) 0x0400 0x8001 ∧
    HoldsByte bench.turn.turn (operandMap bench .src (.ind 1)) 0x0400 0x80 ∧
    HoldsWord bench.turn (currentMap bench) bench.pc 0x0410 ∧
    HoldsWord bench.turn.turn (operandMap bench .src .sym) 0x0410 0x0005 ∧
    HoldsByte bench.turn.turn (operandMap bench .src .sym) 0x0410 0x00 ∧
    HoldsWord bench.turn.turn (currentMap bench) (bench.wp + 2 * (1 : Reg).setWidth 16) 0x0400 ∧
    HoldsWord bench.turn.turn.turn (operandMap bench .src (.idx 1)) (0x0410 + 0x0400) 0x0000 ∧
    HoldsByte bench.turn.turn.turn (operandMap bench .src (.idx 1)) (0x0410 + 0x0400) 0x00 ∧
    HoldsWord busy.turn (currentMap busy) (busy.wp + 2 * (1 : Reg).setWidth 16) 0x0420 ∧
    HoldsWord busy.turn.turn (operandMap busy .src (.ind 1)) 0x0420 0x3400 := by
  refine ⟨?_, ?_, ?_, ?_, ?_, ?_, ?_, ?_, ?_, ?_, ?_, ?_, ?_⟩ <;> exact ⟨_, _, rfl, by decide, by decide⟩

/-- The two sides of the self-reference test: R1 addressing the next register, and no register at all. -/
theorem witness_Autoincrement :
    (HoldsWord bench.turn (currentMap bench) (bench.wp + 2 * (1 : Reg).setWidth 16) 0x0400 ∧
      evenAddress 0x0400 ≠ evenAddress (bench.wp + 2 * (1 : Reg).setWidth 16) ∧
      place bench (currentMap bench) (evenAddress (bench.wp + 2 * (1 : Reg).setWidth 16)) = .ok (.ram, 0x0102) ∧
      HoldsWord bench.turn.turn (operandMap bench .src (.inc 1)) 0x0400 0x8001 ∧
      HoldsByte bench.turn.turn (operandMap bench .src (.inc 1)) 0x0400 0x80) ∧
    evenAddress 0x0104 ≠ evenAddress (bench.wp + 2 * (1 : Reg).setWidth 16) := by
  refine ⟨⟨⟨_, _, rfl, by decide, by decide⟩, by decide, by decide, ⟨_, _, rfl, by decide, by decide⟩,
    ⟨_, _, rfl, by decide, by decide⟩⟩, by decide⟩

theorem witness_OperandEvaluationFrame :
    (∃ l v t, operandWord .src (.inc 1) bench = .ok ((l, v), t)) ∧ (∃ l c t, operandByte .src (.idx 1) bench = .ok ((l, c), t)) ∧
    ∃ l t, operandAddress .dst .byte (.inc 1) bench = .ok (l, t) :=
  ⟨⟨_, _, _, rfl⟩, ⟨_, _, _, rfl⟩, ⟨_, _, rfl⟩⟩

/-- `bench` with modules connected for the first and the last extended operation; the function of the last is supplied. -/
def modules : State := { bench with plat := { bench.plat with xopModules := 0x8001, xopFunctions := 0x8000 } }

/-- A register that holds its own address, even and odd; X of X and of an undefined op code; a machine without the map option;
a hardware module without its function. -/
theorem witness_RefusedForms :
    (∀ a ∈ ([0x0102, 0x0103] : List Word), ∃ s s1, readReg 1 s = .ok (a, s1) ∧
      evenAddress a = evenAddress (s.wp + 2 * (1 : Reg).setWidth 16)) ∧
    (∃ s l s1, operandWord .src (.reg 9) s = .ok ((l, 0x0489), s1) ∧ decodeWord 0x0489 = .ok (.x (.reg 9))) ∧
    (∃ s l s1 e, operandWord .src (.reg 9) s = .ok ((l, 0x0C00), s1) ∧ decodeWord 0x0C00 = .error e) ∧
    (machine .m990_4 0 []).plat.hasMap = false ∧
    ∃ l s1, operandAddress .src .word (.reg 1) modules = .ok (l, s1) ∧ modules.plat.xopHardware 0 = true ∧
      modules.plat.xopSupplied 0 = false := by
  refine ⟨?_, ⟨machine .m990_4 0 [(0x0112, 0x0489)], _, _, rfl, by decide⟩,
    ⟨machine .m990_4 0 [(0x0112, 0x0C00)], _, _, _, rfl, rfl⟩, by decide, _, _, rfl, by decide, by decide⟩
  intro a h
  simp only [List.mem_cons, List.not_mem_nil, or_false] at h
  rcases h with rfl | rfl
  · exact ⟨machine .m990_4 0 [(0x0102, 0x0102)], _, rfl, by decide⟩
  · exact ⟨machine .m990_4 0 [(0x0102, 0x0103)], _, rfl, by decide⟩

theorem witness_AddWords : TwoWords (.inc 1) .sym bench 0x8001 0x0005 := two_words
theorem witness_AddBytes : TwoBytes (.inc 1) .sym bench 0x80 0x00 := two_bytes
theorem witness_SubtractOperands :
    TwoWords (.inc 1) .sym bench 0x8001 0x0005 ∧ TwoBytes (.inc 1) .sym bench 0x80 0x00 := ⟨two_words, two_bytes⟩
theorem witness_SetBitsWords : TwoWords (.inc 1) .sym bench 0x8001 0x0005 := two_words
theorem witness_SetBitsBytes : TwoBytes (.inc 1) .sym bench 0x80 0x00 := two_bytes

theorem witness_MoveOperand :
    (∃ s1 s2 sl dl src k p, operandWord .src (.inc 1) bench = .ok ((sl, src), s1) ∧
      operandAddress .dst .word .sym s1 = .ok (dl, s2) ∧ place s2 dl.file (evenAddress dl.addr) = .ok (k, p)) ∧
    ∃ s1 s2 sl dl src k p, operandByte .src (.inc 1) bench = .ok ((sl, src), s1) ∧
      operandAddress .dst .byte .sym s1 = .ok (dl, s2) ∧ place s2 dl.file dl.addr = .ok (k, p) :=
  ⟨⟨_, _, _, _, _, _, _, rfl, rfl, rfl⟩, _, _, _, _, _, _, _, rfl, rfl, rfl⟩

theorem witness_CompareWords : TwoWords (.inc 1) .sym bench 0x8001 0x0005 ∧ Immediate 3 bench 0x0410 0x0002 :=
  ⟨two_words, immediate⟩
theorem witness_CompareBytes : TwoBytes (.inc 1) .sym bench 0x80 0x00 := two_bytes
theorem witness_AddImmediate : Immediate 3 bench 0x0410 0x0002 := immediate
theorem witness_LogicalAndLoadImmediate : Immediate 3 bench 0x0410 0x0002 := immediate

/-- A general source and a register. -/
theorem source_and_register :
    ∃ s1 s2 sl src x k p, operandWord .src (.inc 1) bench = .ok ((sl, src), s1) ∧ readReg 3 s1 = .ok (x, s2) ∧
      place s2 (currentMap s2) (evenAddress (s2.wp + 2 * (3 : Reg).setWidth 16)) = .ok (k, p) :=
  ⟨_, _, _, _, _, _, _, rfl, rfl, rfl⟩

theorem witness_CompareBits :
    ∃ s1 s2 sl src x, operandWord .src (.inc 1) bench = .ok ((sl, src), s1) ∧ readReg 3 s1 = .ok (x, s2) :=
  ⟨_, _, _, _, _, rfl, rfl⟩
theorem witness_ExclusiveOr :
    ∃ s1 s2 sl src x k p, operandWord .src (.inc 1) bench = .ok ((sl, src), s1) ∧ readReg 3 s1 = .ok (x, s2) ∧
      place s2 (currentMap s2) (evenAddress (s2.wp + 2 * (3 : Reg).setWidth 16)) = .ok (k, p) := source_and_register

/-- The register pair inside the workspace, and with register 15, whose second word is past it. -/
theorem witness_Multiply :
    ∀ d ∈ ([3, 15] : List Reg), ∃ s1 s2 sl src x k k' p p', operandWord .src (.inc 1) bench = .ok ((sl, src), s1) ∧
      readReg d s1 = .ok (x, s2) ∧ place s2 (currentMap s2) (evenAddress (s2.wp + 2 * d.setWidth 16)) = .ok (k, p) ∧
      place s2 (currentMap s2) (evenAddress (s2.wp + 2 * d.setWidth 16 + 2)) = .ok (k', p') := by
  intro d h
  simp only [List.mem_cons, List.not_mem_nil, or_false] at h
  rcases h with rfl | rfl <;> exact ⟨_, _, _, _, _, _, _, _, _, rfl, rfl, rfl, rfl⟩

/-- The divisor 1 at the bounds: the high word equal to it (overflow) and one less than it, 0 (a quotient). -/
theorem witness_Divide :
    (∃ s1 s2 sl, operandWord .src (.reg 5) bench = .ok ((sl, 1), s1) ∧ readReg 5 s1 = .ok (1, s2)) ∧
    ∃ s1 s2 s3 sl lo k k' p p', operandWord .src (.reg 5) bench = .ok ((sl, 1), s1) ∧ readReg 4 s1 = .ok (0, s2) ∧
      load (s2.wp + 2 * (4 : Reg).setWidth 16 + 2) s2 = .ok (lo, s3) ∧
      place s3 (currentMap s3) (evenAddress (s3.wp + 2 * (4 : Reg).setWidth 16)) = .ok (k, p) ∧
      place s3 (currentMap s3) (evenAddress (s3.wp + 2 * (4 : Reg).setWidth 16 + 2)) = .ok (k', p') :=
  ⟨⟨_, _, _, rfl, rfl⟩, _, _, _, _, _, _, _, _, _, rfl, rfl, rfl, rfl, rfl⟩

theorem witness_Increment : OneWord (.inc 1) bench 0x8001 := one_word
theorem witness_Decrement : OneWord (.inc 1) bench 0x8001 := one_word
theorem witness_NegateAndAbsolute : OneWord (.inc 1) bench 0x8001 ∧ OneWord (.reg 5) bench 0x0001 :=
  ⟨one_word, _, _, _, _, rfl, rfl⟩
theorem witness_InvertAndSwap : OneWord (.inc 1) bench 0x8001 := one_word
theorem witness_ClearAndSet : OneAddress (.inc 1) bench 0x0400 := one_address

theorem witness_BranchAndLink :
    ∃ s1 l k p, operandAddress .src .word (.inc 1) bench = .ok (l, s1) ∧
      place s1 (currentMap s1) (evenAddress (s1.wp + 22)) = .ok (k, p) := ⟨_, _, _, _, rfl, rfl⟩

theorem witness_BranchAndLoadWorkspace :
    ∃ s1 s2 s3 l newWp newPc, Nonempty (SavePlaces s3 (currentMap s1) newWp) ∧
      operandAddress .src .word (.inc 1) bench = .ok (l, s1) ∧ readWord (currentMap s1) l.addr s1 = .ok (newWp, s2) ∧
      readWord (currentMap s1) (l.addr + 2) s2 = .ok (newPc, s3) :=
  ⟨_, _, _, _, _, _, ⟨⟨_, _, _, _, _, _, rfl, rfl, rfl⟩⟩, rfl, rfl, rfl⟩

/-- In privileged and in non-privileged state. -/
theorem witness_ReturnWithWorkspace :
    ∀ s ∈ [bench, user], ∃ s1 s2 s3 w13 w14 w15, readReg 13 s = .ok (w13, s1) ∧ readReg 14 s1 = .ok (w14, s2) ∧
      readReg 15 s2 = .ok (w15, s3) := by
  intro s h
  simp only [List.mem_cons, List.not_mem_nil, or_false] at h
  rcases h with rfl | rfl <;> exact ⟨_, _, _, _, _, _, rfl, rfl, rfl⟩

theorem witness_privilege : unprivileged bench = false ∧ unprivileged user = true := by decide

/-- An even PC; a status that takes and one that does not take each jump is in its test of the spec's table. -/
theorem witness_JumpsAfterCompare : bench.pc.getLsbD 0 = false ∧
    (flag .lgt 0x8000 = true ∧ flag .eq 0x8000 = false) ∧ ¬ (flag .lgt 0x0000 = true ∧ flag .eq 0x0000 = false) ∧
    (flag .lgt 0x0000 = false ∧ flag .eq 0x0000 = false) ∧ (flag .agt 0x4000 = true) ∧ ¬ (flag .agt 0x0000 = true) ∧
    (flag .eq 0x2000 = true) ∧ ¬ (flag .eq 0x0000 = true) := by decide
theorem witness_JumpsOnBits : bench.pc.getLsbD 0 = false ∧ (flag .c 0x1000 = true ∧ flag .ov 0x0800 = true ∧ flag .op 0x0400 = true) ∧
    flag .c 0 = false ∧ flag .ov 0 = false ∧ flag .op 0 = false := by decide

/-- X of INC R5 and of JMP. -/
theorem witness_ExecuteInstruction :
    (∃ s1 s2 l l2 a k p, operandWord .src (.reg 9) bench = .ok ((l, 0x0585), s1) ∧ decodeWord 0x0585 = .ok (.inc (.reg 5)) ∧
      operandWord .src (.reg 5) (s1.setLd .none) = .ok ((l2, a), s2) ∧ place s2 l2.file (evenAddress l2.addr) = .ok (k, p)) ∧
    ∃ s s1 l, operandWord .src (.reg 9) s = .ok ((l, 0x10FF), s1) ∧ decodeWord 0x10FF = .ok (.jmp 0xFF) :=
  ⟨⟨_, _, _, _, _, _, _, rfl, by decide, rfl, rfl⟩, machine .m990_4 0 [(0x0112, 0x10FF)], _, _, rfl, by decide⟩

theorem witness_ControlInstructions :
    bench.plat.isTms = false ∧ unprivileged bench = false ∧ (machine .tms9900 0 []).plat.isTms = true := by decide

theorem witness_LoadOrRestart :
    bench.plat.isTms = false ∧ unprivileged bench = false ∧
    ∃ s1 s2 newWp newPc, Nonempty (SavePlaces s2 .zero newWp) ∧ readWord .zero 0xFFFC bench = .ok (newWp, s1) ∧
      readWord .zero 0xFFFE s1 = .ok (newPc, s2) :=
  ⟨by decide, by decide, _, _, _, _, ⟨⟨_, _, _, _, _, _, rfl, rfl, rfl⟩⟩, rfl, rfl⟩

theorem witness_PrivilegedInstructionsTrap : unprivileged user = true ∧ user.plat.hasMap = true := by decide

/-- R12 at the first privileged line, 0E00, and one line below it. -/
theorem witness_PrivilegedCruTraps :
    ∃ s s1 r12, unprivileged s = true ∧ readReg 12 s = .ok (r12, s1) ∧
      0xE00 ≤ ((r12.toNat / 2 : Nat) + (0 : BitVec 8).toInt) % 4096 ∧ 0xE00 ≤ r12.toNat / 2 % 4096 ∧
      ¬ 0xE00 ≤ ((r12.toNat / 2 : Nat) + (0xFF : BitVec 8).toInt) % 4096 :=
  ⟨machine (.m990_10 true) 0x0100 [(0x0118, 0x1C00)], _, 0x1C00, by decide, rfl, by decide, by decide, by decide⟩

/-- The last line that is not privileged, in non-privileged state, and a line below 0, modulo 4096, in privileged state. -/
theorem witness_CruBits :
    (∃ s s1 r12, readReg 12 s = .ok (r12, s1) ∧
      ((0xDFF : BitVec 12).toNat : Int) = ((r12.toNat / 2 : Nat) + (0xFF : BitVec 8).toInt) % 4096 ∧
      unprivileged s = true ∧ (0xDFF : BitVec 12).toNat < 0xE00) ∧
    ∃ s s1 r12, readReg 12 s = .ok (r12, s1) ∧
      ((0xFFF : BitVec 12).toNat : Int) = ((r12.toNat / 2 : Nat) + (0xFF : BitVec 8).toInt) % 4096 ∧ unprivileged s = false :=
  ⟨⟨machine (.m990_10 true) 0x0100 [(0x0118, 0x1C00)], _, 0x1C00, rfl, by decide, by decide, by decide⟩,
    machine (.m990_10 true) 0 [], _, 0, rfl, by decide, by decide⟩

/-- 8 and 9 bits, and the count field 0 for 16, from a base line that is not privileged. -/
theorem witness_LoadCru :
    unprivileged user = true ∧ (∃ s1 r12, readReg 12 user = .ok (r12, s1) ∧ r12.toNat / 2 % 4096 < 0xE00 ∧
      (∃ l v s2, operandByte .src (.inc 1) s1 = .ok ((l, v), s2)) ∧ ∃ l v s2, operandWord .src (.inc 1) s1 = .ok ((l, v), s2)) ∧
    (∀ x ∈ ([(8, 8), (9, 9), (0, 16)] : List (BitVec 4 × Nat)), (if x.1 = 0 then 16 else x.1.toNat) = x.2) :=
  ⟨by decide, ⟨_, 0x0040, rfl, by decide, ⟨_, _, _, rfl⟩, _, _, _, rfl⟩, by decide⟩

theorem witness_StoreCru :
    unprivileged user = true ∧ (∃ s1 r12, readReg 12 user = .ok (r12, s1) ∧ r12.toNat / 2 % 4096 < 0xE00 ∧
      (∃ l s2 k p, operandAddress .src .byte (.inc 1) s1 = .ok (l, s2) ∧ place s2 l.file l.addr = .ok (k, p)) ∧
      ∃ l s2 k p, operandAddress .src .word (.inc 1) s1 = .ok (l, s2) ∧ place s2 l.file (evenAddress l.addr) = .ok (k, p)) ∧
    (∀ x ∈ ([(8, 8), (9, 9), (0, 16)] : List (BitVec 4 × Nat)), (if x.1 = 0 then 16 else x.1.toNat) = x.2) :=
  ⟨by decide, ⟨_, 0x0040, rfl, by decide, ⟨_, _, _, _, rfl, rfl⟩, _, _, _, _, rfl, rfl⟩, by decide⟩

theorem witness_LoadInterruptMask :
    unprivileged bench = false ∧ (∃ s1 iop, fetch bench = .ok (iop, s1)) ∧ unprivileged user = true :=
  ⟨by decide, ⟨_, _, rfl⟩, by decide⟩

theorem witness_ProcessorRegisterMoves :
    (∃ s1 iop, fetch bench = .ok (iop, s1)) ∧
    place bench (currentMap bench) (evenAddress (bench.wp + 2 * (15 : Reg).setWidth 16)) = .ok (.ram, 0x011E) :=
  ⟨⟨_, _, rfl⟩, by decide⟩

/-- The counts 1 and 15 of the field, and 16 and 1 of R0. -/
theorem shift_counts :
    CountOf 1 bench bench 1 ∧ CountOf 15 bench bench 15 ∧ CountOf 0 bench bench 16 ∧
    ∃ s1, CountOf 0 (machine .m990_4 0 [(0x0100, 0xFFF1)]) s1 1 :=
  ⟨.inl ⟨by decide, rfl, rfl⟩, .inl ⟨by decide, rfl, rfl⟩, .inr ⟨rfl, 0, rfl, rfl⟩, _, .inr ⟨rfl, 0xFFF1, rfl, rfl⟩⟩

theorem witness_ShiftsRight :
    (CountOf 1 bench bench 1 ∧ CountOf 0 bench bench 16) ∧ ∃ a s2, readReg 1 bench = .ok (a, s2) :=
  ⟨⟨shift_counts.1, shift_counts.2.2.1⟩, _, _, rfl⟩
theorem witness_ShiftLeft :
    (CountOf 1 bench bench 1 ∧ CountOf 0 bench bench 16) ∧ ∃ a s2, readReg 1 bench = .ok (a, s2) :=
  ⟨⟨shift_counts.1, shift_counts.2.2.1⟩, _, _, rfl⟩

/-- The first and the last extended operation; and a module whose function is supplied. -/
theorem witness_ExtendedOperation :
    (∀ n ∈ ([0, 15] : List (BitVec 4)), ∃ s1 s2 s3 l newWp newPc k p, Nonempty (SavePlaces s3 .zero newWp) ∧
      operandAddress .src .word (.inc 1) user = .ok (l, s1) ∧ user.plat.xopHardware n = false ∧
      readWord .zero (BitVec.ofNat 16 (0x40 + 4 * n.toNat)) s1 = .ok (newWp, s2) ∧
      readWord .zero (BitVec.ofNat 16 (0x42 + 4 * n.toNat)) s2 = .ok (newPc, s3) ∧
      place s3 .zero (evenAddress (newWp + 22)) = .ok (k, p)) ∧
    ∃ s1 l r, operandAddress .src .word (.inc 1) modules = .ok (l, s1) ∧ modules.plat.xopHardware 15 = true ∧
      modules.plat.xopSupplied 15 = true ∧ Config.xopModule 15 l.addr s1 = r := by
  refine ⟨?_, _, _, _, rfl, by decide, by decide, rfl⟩
  intro n h
  simp only [List.mem_cons, List.not_mem_nil, or_false] at h
  rcases h with rfl | rfl <;>
    exact ⟨_, _, _, _, _, _, _, _, ⟨⟨_, _, _, _, _, _, rfl, rfl, rfl⟩⟩, rfl, by decide, rfl, rfl, rfl⟩

theorem witness_MapFileLoads :
    bench.plat.hasMap = true ∧ unprivileged bench = false ∧
    (∃ s1 s2 a m, readReg 1 bench = .ok (a, s1) ∧ loadMapFile ⟨currentMap s1, a⟩ s1 = .ok (m, s2)) ∧
    (∃ s1 s2 l m, operandAddress .src .word (.inc 1) bench = .ok (l, s1) ∧ loadMapFile l s1 = .ok (m, s2)) ∧
    HoldsWord bench.turn .zero 0x0400 0x8001 ∧ HoldsWord bench.turn.turn .zero (0x0400 + 2) 0 ∧
    HoldsWord bench.turn.turn.turn .zero (0x0400 + 4) 0 ∧ HoldsWord bench.turn.turn.turn.turn .zero (0x0400 + 6) 0 ∧
    HoldsWord bench.turn.turn.turn.turn.turn .zero (0x0400 + 8) 0 ∧
    HoldsWord bench.turn.turn.turn.turn.turn.turn .zero (0x0400 + 10) 0 := by
  refine ⟨by decide, by decide, ⟨_, _, _, _, rfl, rfl⟩, ⟨_, _, _, _, rfl, rfl⟩, ?_, ?_, ?_, ?_, ?_, ?_⟩ <;>
    exact ⟨_, _, rfl, by decide, by decide⟩

theorem witness_LatchLastsOneInstruction :
    (∃ t, exec (.mov (.ind 1) (.reg 2)) (bench.setLd .src) = .next t) ∧
    (∃ l s1 t, operandWord .src (.reg 9) bench = .ok ((l, 0x0585), s1) ∧ decodeWord 0x0585 = .ok (.inc (.reg 5)) ∧
      exec (.x (.reg 9)) bench = .next t) ∧
    ∃ t, takeInterrupt 2 (bench.setLd .src) = .next t :=
  ⟨⟨_, rfl⟩, ⟨_, _, _, rfl, by decide, rfl⟩, _, rfl⟩

/-- Each of its three cases: A, a software XOP, and an XOP of a module whose function is supplied. -/
theorem witness_NonPrivilegedKeeps :
    (∀ w ∈ ([0xA081, 0x2FC1] : List Word), ∃ s t, unprivileged s = true ∧ pendingLevel (sampleInputs s) = none ∧
      fetch s = .ok (w, (s.setPc 0x0302)) ∧ step s = .next t) ∧
    ∃ t, unprivileged (modules.setSt 0x0182) = true ∧ exec (.xop (.reg 1) 15) (modules.setSt 0x0182) = .next t := by
  refine ⟨?_, _, by decide, rfl⟩
  intro w h
  simp only [List.mem_cons, List.not_mem_nil, or_false] at h
  rcases h with rfl | rfl
  · exact ⟨machine (.m990_10 true) 0x0182 [(0x0300, 0xA081)], _, by decide, by decide, rfl, rfl⟩
  · exact ⟨machine (.m990_10 true) 0x0182 [(0x0300, 0x2FC1)], _, by decide, by decide, rfl, rfl⟩

theorem witness_MemoryWindow :
    ∃ s t, unprivileged s = true ∧ s.ld = .none ∧ pendingLevel (sampleInputs s) = none ∧ step s = .next t ∧
      flag .pm t.st = true ∧ (∀ g n u, Runs s (.xop g n) u → s.plat.xopHardware n = false) ∧
      ¬ Reaches s (currentMap s) 0x10000 ∧ s.Quiet 0x10000 := by
  refine ⟨machine (.m990_10 true) 0x0182 [(0x0300, 0xA081)], _, by decide, by decide, by decide, rfl, by decide,
    fun _ n _ _ =>
      (by decide : ∀ n, (machine (.m990_10 true) 0x0182 [(0x0300, 0xA081)]).plat.xopHardware n = false) n, ?_, fun _ h => by (cases h)⟩
  rintro ⟨a, h⟩
  have e : physical (machine (.m990_10 true) 0x0182 [(0x0300, 0xA081)]) .one a = .ok 0x10000 := h
  unfold physical at e
  rw [if_pos (by decide)] at e
  have hb : (MapFile.identity).bias a = some 0 := by
    unfold MapFile.bias
    rw [if_pos]
    · rfl
    · have := (a.extractLsb' 5 11).isLt
      show (a.extractLsb' 5 11).toNat ≤ 2047
      omega
  rw [show (machine (.m990_10 true) 0x0182 [(0x0300, 0xA081)]).mapFile .one = MapFile.identity from rfl, hb] at e
  have hv : biased 0 a = 0x10000 := by injection e
  have := a.isLt
  unfold biased at hv
  rw [BitVec.toNat_add, BitVec.toNat_setWidth] at hv
  simp at hv
  omega

/-! ## The assembly language -/

/-- The written forms of H's examples `LI R4,>AD45` and `BL @>42` (30_encoding.md R112, R113). -/
theorem test_statement_written :
    Assembler.statement 0 ⟨.li 4, [0xAD45]⟩ = " LI R4,>AD45" ∧
    Assembler.statement 0 ⟨.bl .sym, [0x42]⟩ = " BL @>42" := by decide

end Sys2Proof.Tests
end

/-! PROOFS of 10_state.md: the invariant of the machine's states (O2, O3) and reset (O1). First what each update of the state
needs to keep the invariant, then the shared operations and the system instructions, then a step. -/

namespace Sys2Proof.Machine

/-! ## Status words inside ST_MASK (10_state.md R33) -/

/-- A word has no bit outside a mask when each of its bits is a bit of the mask. -/
theorem and_not_eq_zero_iff {st m : Word} : st &&& ~~~m = 0 ↔ ∀ i, st.getLsbD i = true → m.getLsbD i = true := by
  constructor
  · intro h i hi
    have hlt : i < 16 := BitVec.lt_of_getLsbD hi
    have hbit : (st &&& ~~~m).getLsbD i = false := by rw [h]; exact BitVec.getLsbD_zero
    simpa [hi, hlt] using hbit
  · intro h
    apply BitVec.eq_of_getLsbD_eq
    intro i hi
    cases hst : st.getLsbD i with
    | false => simp [hst]
    | true => simp [h i hst]

/-- Every variant assigns the mask's bits 3 to 0 and the bits 15 to 9 of the condition bits and X (10_state.md R28). -/
theorem stMask_getLsbD (p : Config.Platform) {i : Nat} (hi : i < 16) (h : i < 4 ∨ 9 ≤ i) : p.stMask.getLsbD i = true := by
  have assigned : ∀ j : Fin 16, j.val < 4 ∨ 9 ≤ j.val → (0xFE0F : Word).getLsbD j.val = true := by decide
  unfold Config.Platform.stMask
  rw [BitVec.getLsbD_or, BitVec.getLsbD_or, BitVec.getLsbD_or, assigned ⟨i, hi⟩ h]
  rfl

/-- The change of ST writes no bit outside the platform's ST_MASK. -/
def KeepsStatus (p : Config.Platform) (f : Word → Word) : Prop :=
  ∀ st, st &&& ~~~p.stMask = 0 → f st &&& ~~~p.stMask = 0

/-- Only PM and MF depend on the variant (10_state.md R28), so that setting any other field stays inside ST_MASK. -/
theorem keepsStatus_setFlag (p : Config.Platform) {f : Flag} {b : Bool} (h : b = true → f ≠ .pm ∧ f ≠ .mf) :
    KeepsStatus p (setFlag f b) := by
  intro st hst
  rw [and_not_eq_zero_iff] at hst ⊢
  intro i hi
  by_cases hf : f.bit = i
  · subst hf
    have hb : b = true := (flag_setFlag_same f b st).symm.trans hi
    obtain ⟨hpm, hmf⟩ := h hb
    exact stMask_getLsbD p f.bit_lt (.inr (by cases f <;> simp_all [Flag.bit]))
  · exact hst i ((getLsbD_setFlag_ne f b st hf).symm.trans hi)

/-- A cleared field is in every ST_MASK. -/
theorem keepsStatus_clear (p : Config.Platform) (f : Flag) : KeepsStatus p (setFlag f false) :=
  keepsStatus_setFlag p nofun

theorem keepsStatus_setMask (p : Config.Platform) (m : BitVec 4) : KeepsStatus p (setMask m) := by
  intro st hst
  rw [and_not_eq_zero_iff] at hst ⊢
  intro i hi
  rw [getLsbD_setMask] at hi
  split at hi
  · exact stMask_getLsbD p (by omega) (.inl ‹_›)
  · exact hst i hi

/-- TI bits 0 to 6 taken from another word (42_branch.md R164) are assigned on every variant. -/
theorem keepsStatus_restricted (p : Config.Platform) (w : Word) :
    KeepsStatus p fun st => (st &&& 0x01FF) ||| (w &&& 0xFE00) := by
  have high : ∀ j : Fin 16, (0xFE00 : Word).getLsbD j.val = true → 9 ≤ j.val := by decide
  intro st hst
  rw [and_not_eq_zero_iff] at hst ⊢
  intro i hi
  have hlt : i < 16 := BitVec.lt_of_getLsbD hi
  rw [BitVec.getLsbD_or, BitVec.getLsbD_and, BitVec.getLsbD_and, Bool.or_eq_true, Bool.and_eq_true, Bool.and_eq_true] at hi
  obtain ⟨hold, -⟩ | ⟨-, hnew⟩ := hi
  · exact hst i hold
  · exact stMask_getLsbD p hlt (.inr (high ⟨i, hlt⟩ hnew))

/-- A status word masked with ST_MASK has no bit outside it. -/
theorem and_stMask_within (p : Config.Platform) (w : Word) : (w &&& p.stMask) &&& ~~~p.stMask = 0 := by
  rw [and_not_eq_zero_iff]
  intro i hi
  rw [BitVec.getLsbD_and, Bool.and_eq_true] at hi
  exact hi.2

/-! ## Each update of the state -/

/-- Privileged Mode is the Model 990/10's (00_scope.md R6). -/
theorem isTms_of_hasPrivilege {p : Config.Platform} (h : p.hasPrivilege = true) : p.isTms = false := by
  unfold Config.Platform.hasPrivilege at h
  unfold Config.Platform.isTms
  split at h
  next hv => rw [hv]; rfl
  next => cases h

/-- The invariant on one installation: the platform is that of the state, and no step changes it (00_scope.md R6 to R12). -/
structure InvOn (p : Config.Platform) (s : State) : Prop where
  inv  : s.Inv
  plat : s.plat = p

/-- The values the latch LD can take: any with the map option, `none` without it (10_state.md R37). -/
def LatchAllowed (p : Config.Platform) (ld : LongDistance) : Prop := p.hasMap = false → ld = .none

namespace InvOn

variable {p : Config.Platform} {s t : State}

/-- The invariant is about the platform, PC, ST, memory, LD, ERR and CLKEN alone. -/
theorem congr (h : InvOn p s) (hplat : t.plat = s.plat) (hpc : t.pc = s.pc) (hst : t.st = s.st) (hmem : t.mem = s.mem)
    (hld : t.ld = s.ld) (herr : t.err = s.err) (hclken : t.clken = s.clken) : InvOn p t := by
  obtain ⟨⟨memory, space, pcEven, status, latch, errorOn, clockOn⟩, plat⟩ := h
  exact ⟨⟨hmem ▸ memory, hmem ▸ space, hpc ▸ pcEven, by rw [hst, hplat]; exact status, by rw [hplat, hld]; exact latch,
    by rw [herr, hplat]; exact errorOn, by rw [hclken, hplat]; exact clockOn⟩, hplat.trans plat⟩

theorem setWp (h : InvOn p s) (v : Word) : InvOn p (s.setWp v) := h.congr rfl rfl rfl rfl rfl rfl rfl
theorem setMap0 (h : InvOn p s) (v : MapFile) : InvOn p (s.setMap0 v) := h.congr rfl rfl rfl rfl rfl rfl rfl
theorem setMap1 (h : InvOn p s) (v : MapFile) : InvOn p (s.setMap1 v) := h.congr rfl rfl rfl rfl rfl rfl rfl
theorem setMap2 (h : InvOn p s) (v : MapFile) : InvOn p (s.setMap2 v) := h.congr rfl rfl rfl rfl rfl rfl rfl
theorem setIdle (h : InvOn p s) (v : Bool) : InvOn p (s.setIdle v) := h.congr rfl rfl rfl rfl rfl rfl rfl
theorem emit (h : InvOn p s) (e : Event) : InvOn p (s.emit e) := h.congr rfl rfl rfl rfl rfl rfl rfl

theorem jump (h : InvOn p s) (a : Word) : InvOn p (s.jump a) :=
  ⟨{ h.inv with pcEven := evenAddress_low a }, h.plat⟩

theorem setSt (h : InvOn p s) {v : Word} (hv : v &&& ~~~p.stMask = 0) : InvOn p (s.setSt v) :=
  ⟨{ h.inv with status := by rw [State.setSt_st, State.setSt_plat, h.plat]; exact hv }, h.plat⟩

theorem applySt (h : InvOn p s) {f : Word → Word} (hf : KeepsStatus p f) : InvOn p (s.setSt (f s.st)) :=
  h.setSt (hf s.st (h.plat ▸ h.inv.status))

theorem setMem (h : InvOn p s) {m : Memory} (hwf : m.wf = true) (hspace : m.inSpace = true) : InvOn p (s.setMem m) :=
  ⟨{ h.inv with memory := hwf, space := hspace }, h.plat⟩

theorem setLd (h : InvOn p s) {ld : LongDistance} (hld : LatchAllowed p ld) : InvOn p (s.setLd ld) :=
  ⟨{ h.inv with latch := fun hm => hld (h.plat ▸ hm) }, h.plat⟩

theorem clearLd (h : InvOn p s) : InvOn p (s.setLd .none) := h.setLd fun _ => rfl

theorem setErr (h : InvOn p s) {b : Bool} (hb : b = true → p.hasPrivilege = true) : InvOn p (s.setErr b) :=
  ⟨{ h.inv with errorOn := fun he => h.plat.symm ▸ hb he }, h.plat⟩

theorem clearErr (h : InvOn p s) : InvOn p (s.setErr false) := h.setErr nofun

theorem setClken (h : InvOn p s) {b : Bool} (hb : b = true → p.isTms = false) : InvOn p (s.setClken b) :=
  ⟨{ h.inv with clockOn := fun hc => h.plat.symm ▸ hb hc }, h.plat⟩

theorem clearClken (h : InvOn p s) : InvOn p (s.setClken false) := h.setClken nofun

/-- What another agent writes is in memory's form and space (20_memory.md R51, R74). -/
theorem written (h : InvOn p s) (ws : List ByteWrite) : InvOn p (s.setMem (writtenBy s.plat ws s.mem)) :=
  h.setMem (wf_writtenBy _ _ h.inv.memory) (inSpace_writtenBy _ _ h.inv.space)

theorem turn (h : InvOn p s) : InvOn p s.turn := (h.written (s.dmaEnv.headD [])).congr rfl rfl rfl rfl rfl rfl rfl

/-- Both bytes of an even word address are physical addresses, so a word store stays inside the physical space. -/
theorem storedWord (h : InvOn p s) {f : MapNo} {a : Word} {k : Config.RegionKind} {q : Nat}
    (hplace : place s f (evenAddress a) = .ok (k, q)) (v : Word) : InvOn p (storedWord k q v s) := by
  have hq : q + 1 < 0x200000 := physical_lt (physical_or_one (evenAddress_low a) (place_physical hplace).1)
  cases k with
  | ram => exact h.turn.setMem (Memory.wf_setWord h.turn.inv.memory q v) (Memory.inSpace_setWord hq h.turn.inv.space v)
  | rom => exact h.turn
  | device => exact h.turn.emit _

theorem storedByte (h : InvOn p s) {f : MapNo} {a : Word} {k : Config.RegionKind} {q : Nat}
    (hplace : place s f a = .ok (k, q)) (v : Byte) : InvOn p (storedByte k q v s) := by
  have hq : q < 0x200000 := physical_lt (place_physical hplace).1
  cases k with
  | ram => exact h.turn.setMem (Memory.wf_setByte h.turn.inv.memory q v) (Memory.inSpace_setByte hq h.turn.inv.space v)
  | rom => exact h.turn
  | device => exact h.turn.emit _

/-- Non-privileged state exists only where ERR does (60_exceptions.md R320). -/
theorem hasPrivilege_of_unprivileged (h : InvOn p s) (hu : unprivileged s = true) : p.hasPrivilege = true := by
  unfold unprivileged at hu
  rw [h.plat, Bool.and_eq_true] at hu
  exact hu.1

/-- Entering privileged state and map file 0 clears bits of ST (60_exceptions.md R301). -/
theorem supervisor (h : InvOn p s) : InvOn p (s.setSt (supervisorStatus s)) := by
  have hpm := keepsStatus_clear p .pm
  have hmf := keepsStatus_clear p .mf
  have hst : s.st &&& ~~~p.stMask = 0 := h.plat ▸ h.inv.status
  refine h.setSt ?_
  unfold supervisorStatus
  split <;> split
  · exact hmf _ (hpm _ hst)
  · exact hpm _ hst
  · exact hmf _ hst
  · exact hst

/-- Whatever a module answers: its ST is masked, its bytes go to RAM, and a module is connected only to the Model 990/10, which has
ERR and CLKEN (48_xop_longdistance.md R271). -/
theorem afterModule (h : InvOn p s) {n : BitVec 4} (hx : p.xopHardware n = true) (r : ModuleResult) :
    InvOn p (s.afterModule r) := by
  have hpriv : p.hasPrivilege = true := by
    unfold Config.Platform.xopHardware at hx
    rw [Bool.and_eq_true] at hx
    exact hx.1
  have htms : p.isTms = false := isTms_of_hasPrivilege hpriv
  obtain rfl := h.plat
  have registers := (((h.written r.writes).setWp r.wp).jump r.pc).setSt (and_stMask_within s.plat r.st)
  exact (((((registers.setMap0 r.map0).setMap1 r.map1).setMap2 r.map2).setErr fun _ => hpriv).setIdle r.idle).setClken
    fun _ => htms

theorem sampleInputs (h : InvOn p s) : InvOn p (sampleInputs s) := by
  obtain ⟨irq, clk, env, e⟩ := sampleInputs_eq s
  rw [e]
  exact h.congr rfl rfl rfl rfl rfl rfl rfl

end InvOn

/-! ## The shared operations -/

/-- The invariant stands what the shared operations do, through every map file. -/
theorem invOn_closed (p : Config.Platform) : Closed (InvOn p) (fun _ => True) (KeepsStatus p) where
  turn _ h := h.turn
  draw _ _ h := h.congr rfl rfl rfl rfl rfl rfl rfl
  emit _ e h := h.emit e
  jump _ a h := h.jump a
  trap _ h hu := h.setErr fun _ => h.hasPrivilege_of_unprivileged hu
  setWp _ a h := h.setWp a
  word _ _ _ _ _ v h _ hplace := h.storedWord hplace v
  byte _ _ _ _ _ v h _ hplace := h.storedByte hplace v
  current _ _ := trivial
  operand _ _ _ _ _ := trivial
  setSt _ _ h hf := h.applySt hf
  after _ _ _ hpm hmf hg st hst := keepsStatus_setFlag p (fun _ => ⟨hpm, hmf⟩) _ (hg st hst)
  same _ hst := hst

/-- A privileged body or the error interrupt. -/
theorem Closed.privileged {G : State → Prop} {files : MapNo → Prop} {status : (Word → Word) → Prop}
    (h : Closed G files status) (n : Nat) {body : Op Unit} (hb : Preserves G body fun _ => True) :
    Preserves G (Machine.whenPrivileged n body) fun _ => True :=
  h.whenPrivileged n fun s hs _ a t e => (hb s hs a t e).1

section

variable {p : Config.Platform}

/-- A control instruction runs its body off the TMS9900 alone (44_control_cru.md R205). -/
theorem control_preserves (c : Control) {body : Op Unit} (hb : p.isTms = false → Preserves (InvOn p) body fun _ => True) :
    Preserves (InvOn p) (control c body) fun _ => True := by
  have signals : Preserves (InvOn p) (signal c) fun _ => True := Preserves.update fun _ hu => hu.emit _
  intro s hs a t e
  unfold control at e
  split at e
  · exact signals s hs a t e
  · rename_i hn
    exact (invOn_closed p).privileged 0 (hb (by rw [← hs.plat]; simpa using hn)) s hs a t e

/-- An instruction of the map option runs its body with the map option alone (30_encoding.md R108). -/
theorem withMapOption_preserves {α : Type} {body : Op α} {Q : α → Prop}
    (hb : p.hasMap = true → Preserves (InvOn p) body Q) : Preserves (InvOn p) (withMapOption body) Q := by
  intro s hs a t e
  unfold withMapOption at e
  split at e
  · exact hb (hs.plat ▸ ‹_›) s hs a t e
  · cases e

/-- A latch other than `none` is answered with the map option alone (10_state.md R37). -/
theorem longDistance_preserves (g : GenAddr) (next : LongDistance) :
    Preserves (InvOn p) (longDistance g next) (LatchAllowed p) := by
  have hc := invOn_closed p
  refine withMapOption_preserves fun hm => ?_
  have allowed : ∀ ld, LatchAllowed p ld := fun _ h => absurd (hm.symm.trans h) nofun
  intro s hs ld t e
  dsimp only at e
  split at e
  · rename_i hu
    cases e
    exact ⟨hc.errorInterrupt _ hs hu, allowed _⟩
  · exact ((hc.operandAddress (by decide) .word g).bind fun l _ => (hc.loadMapFile l).bind fun m _ =>
      (Preserves.update fun _ ht => ht.setMap2 m).bind fun _ _ =>
        Preserves.pure (allowed next)) s hs ld t e

/-- The return takes all of ST through ST_MASK, or TI bits 0 to 6 of it (42_branch.md R164). -/
theorem restoreContext_preserves : Preserves (InvOn p) restoreContext fun _ => True := by
  have hc := invOn_closed p
  refine (hc.readReg 13).bind fun w13 _ => (hc.readReg 14).bind fun w14 _ => (hc.readReg 15).bind fun w15 _ =>
    Preserves.update fun s hs => ?_
  refine ((hs.setSt ?_).setWp w13).jump w14
  split
  · exact keepsStatus_restricted p w15 _ (hs.plat ▸ hs.inv.status)
  · rw [hs.plat]; exact and_stMask_within p w15

/-- The end of an instruction's body that keeps the invariant. -/
theorem complete_invOn {body : Op Unit} (hb : Preserves (InvOn p) body fun _ => True) {s t : State} (hs : InvOn p s)
    (e : complete body s = .next t) : InvOn p t :=
  complete_preserves hb (fun _ h => h.clearLd) hs e

/-! ## The system instructions -/

theorem execLimi_invOn {s t : State} (hs : InvOn p s) (e : execLimi s = .next t) : InvOn p t :=
  have hc := invOn_closed p
  complete_invOn (hc.privileged 1 (hc.fetch.bind fun _ _ => hc.status' (keepsStatus_setMask p _))) hs e

theorem execLmf_invOn {m : BitVec 1} {w : Reg} {s t : State} (hs : InvOn p s) (e : execLmf m w s = .next t) : InvOn p t :=
  have hc := invOn_closed p
  complete_invOn (withMapOption_preserves fun _ => hc.privileged 0 ((hc.readReg w).bind fun _ _ =>
    Preserves.get.bind fun _ _ => (hc.loadMapFile _).bind fun f _ => Preserves.update fun u hu => by
      split
      · exact hu.setMap0 f
      · exact hu.setMap1 f)) hs e

theorem execIdle_invOn {s t : State} (hs : InvOn p s) (e : execIdle s = .next t) : InvOn p t := by
  have idles : Preserves (InvOn p) (update fun u => u.setIdle true) fun _ => True :=
    Preserves.update fun _ hu => hu.setIdle true
  refine complete_invOn ((invOn_closed p).privileged 0 ?_) hs e
  exact Preserves.ite (fun _ => (Preserves.update fun _ hu => hu.emit _).bind fun _ _ => idles) fun _ => idles

theorem execRset_invOn {s t : State} (hs : InvOn p s) (e : execRset s = .next t) : InvOn p t :=
  complete_invOn (control_preserves .rset fun _ => ((invOn_closed p).status' (keepsStatus_setMask p 0)).bind fun _ _ =>
    (Preserves.update fun _ hu => hu.clearClken.clearErr).bind fun _ _ => Preserves.update fun _ hu => hu.emit _) hs e

theorem execCkof_invOn {s t : State} (hs : InvOn p s) (e : execCkof s = .next t) : InvOn p t :=
  complete_invOn (control_preserves .ckof fun _ => Preserves.update fun _ hu => hu.clearClken) hs e

theorem execCkon_invOn {s t : State} (hs : InvOn p s) (e : execCkon s = .next t) : InvOn p t :=
  complete_invOn (control_preserves .ckon fun hn => Preserves.update fun _ hu => hu.setClken fun _ => hn) hs e

theorem execLrex_invOn {s t : State} (hs : InvOn p s) (e : execLrex s = .next t) : InvOn p t := by
  have hc := invOn_closed p
  refine complete_invOn (control_preserves .lrex fun _ => Preserves.get.bind fun u _ => ?_) hs e
  have switches : Preserves (InvOn p) (do
      contextSwitch 0xFFFC u.wp u.pc u.st none
      setStatus (setMask 0) : Op Unit) fun _ => True :=
    (hc.contextSwitch _ _ _ _ _).bind fun _ _ => hc.status' (keepsStatus_setMask p 0)
  exact Preserves.ite (fun _ => (hc.status' (keepsStatus_clear p .mf)).bind fun _ _ => switches) fun _ => switches

theorem execXop_invOn {g : GenAddr} {n : BitVec 4} {s t : State} (hs : InvOn p s) (e : execXop g n s = .next t) :
    InvOn p t := by
  have hc := invOn_closed p
  refine complete_invOn ((hc.operandAddress (by decide) .word g).bind fun l _ => Preserves.get.bind fun u hu => ?_) hs e
  refine Preserves.ite (fun hx => Preserves.ite (fun _ => ?_) fun _ => Preserves.stop _) fun _ => ?_
  · exact Preserves.update fun v hv => hv.afterModule (hu.plat ▸ hx) _
  · exact (Preserves.update fun _ hv => hv.supervisor).bind fun _ _ => (hc.contextSwitch _ _ _ _ _).bind fun _ _ =>
      hc.status' (keepsStatus_setFlag p fun _ => by decide)

theorem longDistance_invOn {g : GenAddr} {next : LongDistance} {s t : State} (hs : InvOn p s)
    (e : completeLatching (longDistance g next) s = .next t) : InvOn p t :=
  completeLatching_preserves (longDistance_preserves g next) (fun _ _ h hld => h.setLd hld) hs e

/-! ## A step -/

/-- Every instruction but X, which executes another one. -/
theorem exec_invOn_of_ne_x {i : Instr} (hx : ∀ g, i ≠ .x g) {s t : State} (hs : InvOn p s) (e : exec i s = .next t) :
    InvOn p t := by
  cases hi : isSystem i with
  | false => exact (invOn_closed p).exec (fun _ h => h.clearLd) hi hs e
  | true =>
    cases i with
    | x g => exact absurd rfl (hx g)
    | limi => exact execLimi_invOn hs e
    | lmf m w => exact execLmf_invOn hs e
    | idle => exact execIdle_invOn hs e
    | rset => exact execRset_invOn hs e
    | rtwp => exact complete_invOn restoreContext_preserves hs e
    | ckon => exact execCkon_invOn hs e
    | ckof => exact execCkof_invOn hs e
    | lrex => exact execLrex_invOn hs e
    | xop g n => exact execXop_invOn hs e
    | lds g => exact longDistance_invOn hs e
    | ldd g => exact longDistance_invOn hs e
    | _ => cases hi

theorem exec_invOn {i : Instr} {s t : State} (hs : InvOn p s) (e : exec i s = .next t) : InvOn p t := by
  by_cases hx : ∃ g, i = .x g
  · obtain ⟨g, rfl⟩ := hx
    obtain ⟨l, ir, u, j, hread, -, hj, e'⟩ := execX_next e
    have hu : InvOn p u := ((invOn_closed p).operandWord (by decide) g s hs _ u hread).1
    exact exec_invOn_of_ne_x hj hu.clearLd e'
  · exact exec_invOn_of_ne_x (fun g hg => hx ⟨g, hg⟩) hs e

theorem takeInterrupt_invOn {level : Nat} {s t : State} (hs : InvOn p s) (e : takeInterrupt level s = .next t) :
    InvOn p t := by
  have hc := invOn_closed p
  refine complete_invOn (Preserves.get.bind fun u _ => (Preserves.update fun _ hv => hv.supervisor).bind fun _ _ =>
    (hc.contextSwitch _ _ _ _ _).bind fun _ _ => (hc.status' (keepsStatus_setMask p _)).bind fun _ _ =>
    (Preserves.update fun _ hv => hv.setIdle false).bind fun _ _ => ?_) hs e
  have resets : Preserves (InvOn p)
      (if level = 0 then update fun v => (v.setErr false).setClken false else pure ()) fun _ => True :=
    Preserves.ite (fun _ => Preserves.update fun _ hv => hv.clearErr.clearClken) fun _ => Preserves.pure trivial
  exact Preserves.ite (fun _ => (Preserves.update fun _ hv => hv.clearErr).bind fun _ _ => resets) fun _ => resets

/-- A step samples the inputs, then takes an interrupt, stays idle or fetches and executes an instruction (60_exceptions.md
R311). -/
theorem step_invOn {s t : State} (hs : InvOn p s) (e : step s = .next t) : InvOn p t := by
  have hs' : InvOn p (sampleInputs s) := hs.sampleInputs
  unfold step cycle at e
  split at e
  · exact takeInterrupt_invOn hs' e
  · split at e
    · cases e
      exact hs'
    · obtain ⟨ir, u, i, hfetch, -, e'⟩ := fetchAndExecute_next e
      exact exec_invOn ((invOn_closed p).fetch _ hs' ir u hfetch).1 e'

end

/-- Settles O3: the invariant on the state's own installation goes through every operation of a step. -/
theorem invariantKept : Obligations.InvariantKept :=
  fun _ _ hs e => (step_invOn ⟨hs, rfl⟩ e).inv

/-! ## Reset -/

/-- Settles O2: memory is empty, PC and ST are 0, and LD, ERR and CLKEN are off. -/
theorem invariantAtReset : Obligations.InvariantAtReset where
  memory := rfl
  space := rfl
  pcEven := rfl
  status := BitVec.zero_and
  latch _ := rfl
  errorOn := nofun
  clockOn := nofun

/-- In the reset state every logical address is a RAM address (logs 1 and 4) that holds 0 (log 3). -/
theorem reset_holds_zero : HoldsWord State.reset .zero 0 0 ∧ HoldsWord State.reset .zero 2 0 :=
  ⟨⟨.ram, 0, rfl, nofun, rfl⟩, ⟨.ram, 2, rfl, nofun, rfl⟩⟩

/-- R13, R14 and R15 of the workspace at 0000 are RAM in the reset state. -/
def resetSavePlaces : SavePlaces State.reset .zero 0 := ⟨.ram, 26, .ram, 28, .ram, 30, rfl, rfl, rfl⟩

/-- The context switch of reset reads a vector of zeros and saves zeros where zeros are, so that it leaves the reset state. -/
theorem contextSwitch_reset : contextSwitch 0 0 0 0 none State.reset = .ok ((), State.reset) :=
  contextSwitch_ok (f := .zero) rfl (reset_holds_zero.1.read (s := State.reset)) (reset_holds_zero.2.read (s := State.reset))
    resetSavePlaces

/-- Reset is the level-0 interrupt (70_reset_and_hazards.md R340). -/
theorem powerOn_reset : powerOn State.reset = .next State.reset := by
  unfold powerOn takeInterrupt
  refine (complete_ok (t := State.reset) ?_).trans rfl
  rw [Op.get_bind, Op.update_bind]
  exact Op.bind_ok contextSwitch_reset

/-- Settles O1: the fields read off the reset state, and the level-0 interrupt that leaves it. -/
theorem resetState : Obligations.ResetState :=
  ⟨rfl, rfl, rfl, rfl, rfl, rfl, rfl, powerOn_reset⟩

end Sys2Proof.Machine

/-! PROOFS of 20_memory.md: the two bytes of a word (O12), accesses by the kind of their place (O13), address translation (O14),
the map file of an operand (O15), and what a non-privileged step cannot write (O60). The last is one relation, `SameWindow`, that
every shared operation and every instruction keeps but an XOP, whose entry ends in privileged state. -/

namespace Sys2Proof.Machine

/-! ## The two bytes of a word (20_memory.md R55) -/

/-- The physical address of an even address is even: a region's bias is a multiple of 32 bytes (20_memory.md R66). -/
theorem physical_even {s : State} {f : MapNo} {a : Word} {p : Nat} (h : physical s f (evenAddress a) = .ok p) :
    p % 2 = 0 := by
  have ha := evenAddress_toNat a
  unfold physical at h
  split at h
  · split at h
    · cases h
      rw [biased_toNat]
      omega
    · cases h
  · cases h
    omega

/-- The odd byte of a word has the place after the even one's, of the same kind, and neither has a place without the other. -/
theorem place_or_one {s : State} {f : MapNo} {a : Word} {k : Config.RegionKind} {p : Nat}
    (h : place s f (evenAddress a) = .ok (k, p)) : place s f (evenAddress a ||| 1) = .ok (k, p + 1) := by
  obtain ⟨hp, hk⟩ := place_physical h
  have heven := physical_even hp
  have hkind : s.plat.kindAt (p + 1) = s.plat.kindAt p := by
    unfold Config.Platform.kindAt
    congr 1
    omega
  unfold place
  rw [physical_or_one (evenAddress_low a) hp]
  dsimp only
  rw [hkind, hk]

theorem evenAddress_or_one (a : Word) : evenAddress a ||| 1 = a ||| 1 := by
  apply BitVec.eq_of_getLsbD_eq
  intro i _
  rw [BitVec.getLsbD_or, BitVec.getLsbD_or, evenAddress_getLsbD]
  cases i with
  | zero => simp
  | succ n => simp

/-- A word and its two bytes, once its place is known. -/
theorem holdsBytes_iff {s : State} {f : MapNo} {a : Word} {k : Config.RegionKind} {p : Nat}
    (h : place s f (evenAddress a) = .ok (k, p)) (x y : Byte) :
    HoldsByte s f (evenAddress a) x ∧ HoldsByte s f (a ||| 1) y ↔ k ≠ .device ∧ s.mem.byte p = x ∧ s.mem.byte (p + 1) = y := by
  have h' : place s f (a ||| 1) = .ok (k, p + 1) := evenAddress_or_one a ▸ place_or_one h
  constructor
  · rintro ⟨⟨k1, p1, h1, hk, hx⟩, k2, p2, h2, -, hy⟩
    cases h.symm.trans h1
    cases h'.symm.trans h2
    exact ⟨hk, hx, hy⟩
  · rintro ⟨hk, hx, hy⟩
    exact ⟨⟨k, p, h, hk, hx⟩, k, p + 1, h', hk, hy⟩

/-- A word in memory is its left byte, then its right byte. -/
theorem Memory.word_eq_iff {m : Memory} {p : Nat} {v : Word} :
    m.word p = v ↔ m.byte p = leftByte v ∧ m.byte (p + 1) = rightByte v := by
  unfold Memory.word
  constructor
  · rintro rfl
    exact ⟨(leftByte_wordOf _ _).symm, (rightByte_wordOf _ _).symm⟩
  · rintro ⟨hl, hr⟩
    rw [hl, hr, wordOf_bytes]

theorem holdsWord_iff_holdsBytes (s : State) (f : MapNo) (a v : Word) :
    HoldsWord s f a v ↔ HoldsByte s f (evenAddress a) (leftByte v) ∧ HoldsByte s f (a ||| 1) (rightByte v) := by
  constructor
  · rintro ⟨k, p, h, hk, hv⟩
    exact (holdsBytes_iff h _ _).mpr ⟨hk, Memory.word_eq_iff.mp hv⟩
  · intro h
    have ⟨⟨k, p, hplace, _, _⟩, _⟩ := h
    obtain ⟨hk, hv⟩ := (holdsBytes_iff hplace _ _).mp h
    exact ⟨k, p, hplace, hk, Memory.word_eq_iff.mpr hv⟩

/-- A RAM word written is held. -/
theorem storedWord_holdsWord {s : State} {f : MapNo} {a : Word} {p : Nat} (h : place s f (evenAddress a) = .ok (.ram, p))
    (v : Word) : HoldsWord (storedWord .ram p v s) f a v :=
  ⟨.ram, p, (place_storedWord .ram p v s f _).trans h, nofun, Memory.word_setWord_same _ p v⟩

/-- Settles O12: both bytes of a word are at one place and of one kind, and a RAM word written is a word held. -/
theorem byteOrder : Obligations.ByteOrder := fun s f a v =>
  ⟨holdsWord_iff_holdsBytes s f a v, fun p h =>
    ⟨storedWord .ram p v s, writeWord_ok h v, (holdsWord_iff_holdsBytes _ f a v).mp (storedWord_holdsWord h v)⟩⟩

/-! ## Accesses by kind (20_memory.md R52, R53) -/

/-- A word written to RAM whose bytes the environment does not write reads back (20_memory.md R74). -/
theorem readWord_storedWord {s : State} {f : MapNo} {a : Word} {p : Nat} (h : place s f (evenAddress a) = .ok (.ram, p))
    (v : Word) (hq : s.Quiet p) (hq' : s.Quiet (p + 1)) :
    readWord f a (storedWord .ram p v s) = .ok (v, (storedWord .ram p v s).turn) := by
  obtain ⟨hl, hr⟩ := Memory.word_eq_iff.mp (storedWord_stored .ram p v s).2.1
  have hword : (storedWord .ram p v s).turn.mem.word p = v := Memory.word_eq_iff.mpr
    ⟨(hq.storedWord .ram p v).turn_byte.trans hl, (hq'.storedWord .ram p v).turn_byte.trans hr⟩
  exact HoldsWord.read ⟨.ram, p, by rw [place_turn, place_storedWord, h], nofun, hword⟩

theorem readByte_storedByte {s : State} {f : MapNo} {a : Word} {p : Nat} (h : place s f a = .ok (.ram, p)) (v : Byte)
    (hq : s.Quiet p) : readByte f a (storedByte .ram p v s) = .ok (v, (storedByte .ram p v s).turn) := by
  have hbyte : (storedByte .ram p v s).turn.mem.byte p = v :=
    (hq.storedByte .ram p v).turn_byte.trans (storedByte_stored .ram p v s).2.1
  exact HoldsByte.read ⟨.ram, p, by rw [place_turn, place_storedByte, h], nofun, hbyte⟩

/-- What a word read answers, by the kind of its place. -/
theorem readWord_ok {s : State} {f : MapNo} {a : Word} {k : Config.RegionKind} {p : Nat}
    (h : place s f (evenAddress a) = .ok (k, p)) : readWord f a s = .ok (wordAt k p s, afterWordRead k p s) := by
  rw [readWord_apply, h]; rfl

theorem readByte_ok {s : State} {f : MapNo} {a : Word} {k : Config.RegionKind} {p : Nat}
    (h : place s f a = .ok (k, p)) : readByte f a s = .ok (byteAt k p s, afterByteRead k p s) := by
  rw [readByte_apply, h]; rfl

/-- A read of memory answers what it holds after the environment's turn, and changes nothing else. -/
theorem wordAt_of_ne_device {k : Config.RegionKind} (h : k ≠ .device) (p : Nat) (s : State) :
    wordAt k p s = s.turn.mem.word p ∧ afterWordRead k p s = s.turn := by
  cases k with
  | device => exact absurd rfl h
  | ram => exact ⟨rfl, rfl⟩
  | rom => exact ⟨rfl, rfl⟩

theorem byteAt_of_ne_device {k : Config.RegionKind} (h : k ≠ .device) (p : Nat) (s : State) :
    byteAt k p s = s.turn.mem.byte p ∧ afterByteRead k p s = s.turn := by
  cases k with
  | device => exact absurd rfl h
  | ram => exact ⟨rfl, rfl⟩
  | rom => exact ⟨rfl, rfl⟩

/-- Settles O13: each access by the case of its place, then the environment's turn. -/
theorem accessesByKind : Obligations.AccessesByKind := by
  refine ⟨?word, ?byte, ?wordStops, ?byteStops, ?unpopulated, fun _ => State.turn_eq_self, ?turn⟩
  case word =>
    intro s f a v k p h
    refine ⟨writeWord_ok h v, storedWord_stored k p v s, ?_, fun hk => ?_, ?_⟩
    · rintro rfl hq hq'
      exact readWord_storedWord h v hq hq'
    · obtain ⟨hv, ht⟩ := wordAt_of_ne_device hk p s
      rw [readWord_ok h, hv, ht]
    · rintro rfl
      exact readWord_ok h
  case byte =>
    intro s f a v k p h
    refine ⟨writeByte_ok h v, storedByte_stored k p v s, ?_, fun hk => ?_, ?_⟩
    · rintro rfl hq
      exact readByte_storedByte h v hq
    · obtain ⟨hv, ht⟩ := byteAt_of_ne_device hk p s
      rw [readByte_ok h, hv, ht]
    · rintro rfl
      exact readByte_ok h
  case wordStops =>
    intro s f a v e h
    change place s f (evenAddress a) = .error e at h
    rw [readWord_apply, writeWord_apply, h]
    exact ⟨rfl, rfl⟩
  case byteStops =>
    intro s f a v e h
    rw [readByte_apply, writeByte_apply, h]
    exact ⟨rfl, rfl⟩
  case unpopulated =>
    intro s f a p hp hk
    unfold place
    rw [hp]
    dsimp only
    rw [hk]
  case turn =>
    intro s now later h
    have hmem : s.turn.mem = writtenBy s.plat now s.mem := by
      unfold State.turn
      rw [h]
      rfl
    refine ⟨?_, hmem ▸ writtenBy_bytes s.plat now s.mem⟩
    unfold State.turn
    rw [h]
    rfl

/-! ## Limits (20_memory.md R63 to R66) -/

/-- A word with its five low bits set is the last of its granule of 32. -/
theorem toNat_or_granule (x : Word) : (x ||| 0x001F).toNat = 32 * (x.toNat / 32) + 31 := by
  have hx : x ||| 0x001F = x.extractLsb' 5 11 ++ (0x1F : BitVec 5) := by
    apply BitVec.eq_of_getLsbD_eq
    intro i hi
    have low : ∀ j : Fin 16, (0x001F : Word).getLsbD j.val = decide (j.val < 5) := by decide
    have ones : ∀ j : Fin 5, (0x1F : BitVec 5).getLsbD j.val = true := by decide
    rw [BitVec.getLsbD_or, low ⟨i, hi⟩, BitVec.getLsbD_append]
    by_cases h : i < 5
    · rw [if_pos h, ones ⟨i, h⟩, decide_eq_true h, Bool.or_true]
    · rw [if_neg h, decide_eq_false h, Bool.or_false, BitVec.getLsbD_extractLsb', show 5 + (i - 5) = i by omega,
        decide_eq_true (by omega : i - 5 < 11), Bool.true_and]
  rw [hx, BitVec.toNat_append, ← Nat.shiftLeft_add_eq_or_of_lt (BitVec.isLt _), Nat.shiftLeft_eq, BitVec.extractLsb'_toNat,
    Nat.shiftRight_eq_div_pow]
  have := x.isLt
  show x.toNat / 2 ^ 5 % 2 ^ 11 * 2 ^ 5 + 31 = _
  omega

/-- The granule of an address is within a limit exactly when the address is at or below the last one of the limit's granule. -/
theorem granule_le_limitOf (a l : Word) :
    a.extractLsb' 5 11 ≤ limitOf l ↔ a.toNat ≤ (~~~l ||| 0x001F).toNat := by
  unfold limitOf
  rw [BitVec.le_def, toNat_or_granule, BitVec.extractLsb'_toNat, BitVec.extractLsb'_toNat, Nat.shiftRight_eq_div_pow,
    Nat.shiftRight_eq_div_pow]
  have := a.isLt
  have := (~~~l).isLt
  omega

/-- The region of an address: the first whose limit holds it (20_memory.md R64). -/
theorem MapFile.bias_eq (m : MapFile) (a : Word) :
    m.bias a =
      if a.toNat ≤ (~~~m.l1 ||| 0x001F).toNat then some m.b1
      else if a.toNat ≤ (~~~m.l2 ||| 0x001F).toNat then some m.b2
      else if a.toNat ≤ (~~~m.l3 ||| 0x001F).toNat then some m.b3
      else none := by
  unfold MapFile.bias
  simp only [granule_le_limitOf]

/-- With the map option, an address in a region is biased modulo 2^21 (20_memory.md R66). -/
theorem physical_of_bias {s : State} {f : MapNo} {a b : Word} (hm : s.plat.hasMap = true)
    (h : (s.mapFile f).bias a = some b) : physical s f a = .ok ((32 * b.toNat + a.toNat) % 2 ^ 21) := by
  unfold physical
  rw [if_pos hm, h]
  exact congrArg Except.ok (biased_toNat b a)

/-- With the map option, an address in no region is not accessible (20_memory.md R65). -/
theorem physical_of_no_bias {s : State} {f : MapNo} {a : Word} (hm : s.plat.hasMap = true)
    (h : (s.mapFile f).bias a = none) : physical s f a = .error (.fault .mapLimit) := by
  unfold physical
  rw [if_pos hm, h]

/-- Settles O14: the region by the three limits in turn, then what `physical` does with its bias. -/
theorem addressTranslation : Obligations.AddressTranslation := by
  intro s f a
  refine ⟨fun hm => ⟨fun h1 => ?_, fun h1 h2 => ?_, fun h1 h2 h3 => ?_, fun h1 h2 h3 => ?_⟩, fun hm => ?_⟩
  · exact physical_of_bias hm (by rw [MapFile.bias_eq, if_pos h1])
  · exact physical_of_bias hm (by rw [MapFile.bias_eq, if_neg (Nat.not_le.mpr h1), if_pos h2])
  · exact physical_of_bias hm
      (by rw [MapFile.bias_eq, if_neg (Nat.not_le.mpr h1), if_neg (Nat.not_le.mpr h2), if_pos h3])
  · exact physical_of_no_bias hm
      (by rw [MapFile.bias_eq, if_neg (Nat.not_le.mpr h1), if_neg (Nat.not_le.mpr h2), if_neg (Nat.not_le.mpr h3)])
  · unfold physical
    rw [hm]
    rfl

/-! ## The map file of an operand (20_memory.md R67, 48_xop_longdistance.md R277) -/

theorem isRegister_eq_false_iff {g : GenAddr} : isRegister g = false ↔ ∀ r, g ≠ .reg r := by
  cases g <;> simp [isRegister]

/-- Settles O15: the latch names the side or not, and the mode is workspace register addressing or not. -/
theorem mapFileChoice : Obligations.MapFileChoice := by
  intro s side g _
  have hlong : (s.ld = side && !isRegister g) = true ↔ s.ld = side ∧ ∀ r, g ≠ .reg r := by
    rw [Bool.and_eq_true, decide_eq_true_iff, Bool.not_eq_true', isRegister_eq_false_iff]
  unfold operandMap
  refine ⟨fun h => ?_, fun h => ?_⟩
  · exact if_pos (hlong.mpr h)
  · exact if_neg (mt hlong.mp h)

/-! ## The window of a non-privileged program (20_memory.md R68) -/

/-- A change of ST that leaves privilege and the choice of the map file (10_state.md R28). -/
def KeepsModes (f : Word → Word) : Prop := ∀ st, flag .pm (f st) = flag .pm st ∧ flag .mf (f st) = flag .mf st

theorem keepsModes_setFlag_comp {f : Flag} (b : Bool) {g : Word → Word} (hpm : f ≠ .pm) (hmf : f ≠ .mf)
    (hg : KeepsModes g) : KeepsModes fun st => setFlag f b (g st) := by
  intro st
  obtain ⟨hp, hm⟩ := hg st
  exact ⟨(flag_setFlag_ne hpm b _).trans hp, (flag_setFlag_ne hmf b _).trans hm⟩

/-- The restricted return takes TI bits 0 to 6 of ST, which are above PM and MF (42_branch.md R164). -/
theorem keepsModes_restricted (w : Word) : KeepsModes fun st => (st &&& 0x01FF) ||| (w &&& 0xFE00) := by
  have keeps : ∀ f : Flag, (0x01FF : Word).getLsbD f.bit = true → (0xFE00 : Word).getLsbD f.bit = false →
      ∀ st, flag f ((st &&& 0x01FF) ||| (w &&& 0xFE00)) = flag f st := by
    intro f hold hnew st
    unfold flag
    rw [BitVec.getLsbD_or, BitVec.getLsbD_and, BitVec.getLsbD_and, hold, hnew, Bool.and_true, Bool.and_false, Bool.or_false]
  exact fun st => ⟨keeps .pm (by decide) (by decide) st, keeps .mf (by decide) (by decide) st⟩

/-- The byte q is outside the window of the program that s runs: a non-privileged one without a latch, whose map file reaches
q by no address, while the environment does not write it. -/
structure OutsideWindow (s : State) (q : Nat) : Prop where
  unprivileged : unprivileged s = true
  latch        : s.ld = .none
  unreached    : ¬ Reaches s (currentMap s) q
  quiet        : s.Quiet q

/-- From t a program has the window it has from s, and the byte q is as it was. -/
structure SameWindow (q : Nat) (s t : State) : Prop where
  plat   : t.plat = s.plat
  map0   : t.map0 = s.map0
  map1   : t.map1 = s.map1
  map2   : t.map2 = s.map2
  pm     : flag .pm t.st = flag .pm s.st
  mf     : flag .mf t.st = flag .mf s.st
  ld     : t.ld = s.ld
  dmaEnv : t.dmaEnv <:+ s.dmaEnv
  byte   : t.mem.byte q = s.mem.byte q

namespace SameWindow

variable {q : Nat} {s t u : State}

theorem trans (a : SameWindow q s t) (b : SameWindow q t u) : SameWindow q s u :=
  ⟨b.plat.trans a.plat, b.map0.trans a.map0, b.map1.trans a.map1, b.map2.trans a.map2, b.pm.trans a.pm, b.mf.trans a.mf,
    b.ld.trans a.ld, b.dmaEnv.trans a.dmaEnv, b.byte.trans a.byte⟩

/-- Reading and fetching leave the window. -/
theorem ofReadFrame (h : ReadFrame s t) (hq : s.Quiet q) : SameWindow q s t :=
  ⟨h.plat, h.map0, h.map1, h.map2, by rw [h.st], by rw [h.st], h.ld, h.dmaEnv, h.mem q hq⟩

theorem pc_events_draws (s : State) (pc : Word) (events : List Event) (draws : Nat) :
    SameWindow q s (((s.setPc pc).setEvents events).setDraws draws) :=
  ⟨rfl, rfl, rfl, rfl, rfl, rfl, rfl, List.suffix_refl _, rfl⟩

theorem setWp (s : State) (v : Word) : SameWindow q s (s.setWp v) :=
  ⟨rfl, rfl, rfl, rfl, rfl, rfl, rfl, List.suffix_refl _, rfl⟩

theorem setErr (s : State) (v : Bool) : SameWindow q s (s.setErr v) :=
  ⟨rfl, rfl, rfl, rfl, rfl, rfl, rfl, List.suffix_refl _, rfl⟩

theorem setSt (s : State) {f : Word → Word} (hf : KeepsModes f) : SameWindow q s (s.setSt (f s.st)) :=
  ⟨rfl, rfl, rfl, rfl, (hf s.st).1, (hf s.st).2, rfl, List.suffix_refl _, rfl⟩

theorem clearLd (h : s.ld = .none) : SameWindow q s (s.setLd .none) :=
  ⟨rfl, rfl, rfl, rfl, rfl, rfl, h.symm, List.suffix_refl _, rfl⟩

theorem sampleInputs (s : State) : SameWindow q s (sampleInputs s) := by
  obtain ⟨irq, clk, env, e⟩ := sampleInputs_eq s
  rw [e]
  exact ⟨rfl, rfl, rfl, rfl, rfl, rfl, rfl, List.suffix_refl _, rfl⟩

theorem storedWord {k : Config.RegionKind} {p : Nat} (hp : q ≠ p) (hp' : q ≠ p + 1) (hq : s.Quiet q) (v : Word) :
    SameWindow q s (storedWord k p v s) :=
  ⟨by simp, by simp, by simp, by simp, by simp, by simp, by simp, by simp [List.tail_suffix], storedWord_byte_ne hp hp' hq⟩

theorem storedByte {k : Config.RegionKind} {p : Nat} (hp : q ≠ p) (hq : s.Quiet q) (v : Byte) :
    SameWindow q s (storedByte k p v s) :=
  ⟨by simp, by simp, by simp, by simp, by simp, by simp, by simp, by simp [List.tail_suffix], storedByte_byte_ne hp hq⟩

theorem currentMap (h : SameWindow q s t) : currentMap t = currentMap s := by
  unfold Machine.currentMap
  rw [h.mf]

theorem unprivileged (h : SameWindow q s t) : unprivileged t = unprivileged s := by
  unfold Machine.unprivileged
  rw [h.plat, h.pm]

/-- An address that has a place from t is one of the window of s. -/
theorem reaches (h : SameWindow q s t) {f : MapNo} {a : Word} {k : Config.RegionKind} {p : Nat}
    (hp : place t f a = .ok (k, p)) : physical s f a = .ok p := by
  rw [place_congr h.plat h.map0 h.map1 h.map2] at hp
  exact (place_physical hp).1

end SameWindow

namespace OutsideWindow

variable {q : Nat} {s t u : State}

/-- The two bytes of a word are reached through the map file in force by the even address and the odd one after it. -/
theorem not_stored (h : OutsideWindow s q) {a : Word} {p : Nat} (hp : physical s (currentMap s) (evenAddress a) = .ok p) :
    q ≠ p ∧ q ≠ p + 1 := by
  refine ⟨?_, ?_⟩
  · rintro rfl
    exact h.unreached ⟨_, hp⟩
  · rintro rfl
    exact h.unreached ⟨_, physical_or_one (evenAddress_low a) hp⟩

/-- A program keeps its window through every shared operation: each store goes through the map file in force, which does not
reach q, and no operation changes PM, MF, the latch or a map file. -/
theorem closed (h : OutsideWindow s q) : Closed (SameWindow q s) (· = currentMap s) KeepsModes where
  turn t ht := ht.trans (.ofReadFrame (.turn t) (h.quiet.suffix ht.dmaEnv))
  draw t _ ht := ht.trans (.pc_events_draws t t.pc _ _)
  emit t e ht := ht.trans (.pc_events_draws t t.pc (e :: t.events) t.draws)
  jump t a ht := ht.trans (.pc_events_draws t (evenAddress a) t.events t.draws)
  trap t ht _ := ht.trans (.setErr t true)
  setWp t a ht := ht.trans (.setWp t a)
  word t f a k p v ht hf hplace := by
    subst hf
    obtain ⟨hp, hp'⟩ := h.not_stored (ht.reaches hplace)
    exact ht.trans (.storedWord hp hp' (h.quiet.suffix ht.dmaEnv) v)
  byte t f a k p v ht hf hplace := by
    subst hf
    have hp : q ≠ p := by
      rintro rfl
      exact h.unreached ⟨a, ht.reaches hplace⟩
    exact ht.trans (.storedByte hp (h.quiet.suffix ht.dmaEnv) v)
  current _ ht := ht.currentMap
  operand t side g ht hside := by
    unfold operandMap
    rw [ht.ld, h.latch, decide_eq_false hside.symm]
    exact ht.currentMap
  setSt t _ ht hf := ht.trans (.setSt t hf)
  after _ b _ hpm hmf hg := keepsModes_setFlag_comp b hpm hmf hg
  same _ := ⟨rfl, rfl⟩

theorem unprivileged_of_same (h : OutsideWindow s q) (ht : SameWindow q s t) : Machine.unprivileged t = true :=
  ht.unprivileged.trans h.unprivileged

theorem hasPrivilege (h : OutsideWindow s q) (ht : SameWindow q s t) : t.plat.hasPrivilege = true := by
  have hu := h.unprivileged_of_same ht
  unfold Machine.unprivileged at hu
  exact (Bool.and_eq_true_iff.mp hu).1

/-- A privileged body does not run: it is the error interrupt (60_exceptions.md R316). -/
theorem whenPrivileged (h : OutsideWindow s q) (n : Nat) (body : Op Unit) :
    Preserves (SameWindow q s) (whenPrivileged n body) fun _ => True :=
  h.closed.whenPrivileged n fun _ ht hu => nomatch hu.symm.trans (h.unprivileged_of_same ht)

/-- The machine has privilege, so it is no TMS9900, and its control instructions trap (44_control_cru.md R205). -/
theorem control (h : OutsideWindow s q) (c : Control) (body : Op Unit) :
    Preserves (SameWindow q s) (control c body) fun _ => True := by
  intro t ht a u e
  unfold Machine.control at e
  rw [isTms_of_hasPrivilege (h.hasPrivilege ht)] at e
  exact h.whenPrivileged 0 body t ht a u e

/-- LDS and LDD trap, and so leave the latch `none` (48_xop_longdistance.md R275, R276). -/
theorem longDistance (h : OutsideWindow s q) (g : GenAddr) (next : LongDistance) :
    Preserves (SameWindow q s) (longDistance g next) (· = .none) := by
  intro t ht ld u e
  have hu := h.unprivileged_of_same ht
  unfold Machine.longDistance withMapOption at e
  split at e
  · dsimp only at e
    rw [if_pos hu] at e
    cases e
    exact ⟨h.closed.errorInterrupt _ ht hu, rfl⟩
  · cases e

/-- The return takes the restricted part of ST (42_branch.md R164). -/
theorem restoreContext (h : OutsideWindow s q) : Preserves (SameWindow q s) restoreContext fun _ => True := by
  refine (h.closed.readReg 13).bind fun w13 _ => (h.closed.readReg 14).bind fun w14 _ =>
    (h.closed.readReg 15).bind fun w15 _ => Preserves.update fun t ht => ?_
  rw [if_pos (h.unprivileged_of_same ht)]
  exact h.closed.jump _ w14 (h.closed.setWp _ w13 (h.closed.setSt t _ ht (keepsModes_restricted w15)))

/-- The end of an instruction clears a latch that is clear. -/
theorem clearLd (h : OutsideWindow s q) (ht : SameWindow q s t) : SameWindow q s (t.setLd .none) :=
  ht.trans (.clearLd (ht.ld.trans h.latch))

theorem complete (h : OutsideWindow s q) {body : Op Unit} (hb : Preserves (SameWindow q s) body fun _ => True)
    (ht : SameWindow q s t) (e : complete body t = .next u) : SameWindow q s u :=
  complete_preserves hb (fun _ => h.clearLd) ht e

end OutsideWindow

/-! ## The software XOP's entry (48_xop_longdistance.md R270) -/

/-- Every shared operation leaves PM clear. -/
theorem supervisor_closed : Closed (fun s => flag .pm s.st = false) (fun _ => True) KeepsModes where
  turn _ h := h
  draw _ _ h := h
  emit _ _ h := h
  jump _ _ h := h
  trap _ h _ := h
  setWp _ _ h := h
  word _ _ _ _ _ _ h _ _ := by rw [storedWord_st]; exact h
  byte _ _ _ _ _ _ h _ _ := by rw [storedByte_st]; exact h
  current _ _ := trivial
  operand _ _ _ _ _ := trivial
  setSt s _ h hf := (hf s.st).1.trans h
  after _ b _ hpm hmf hg := keepsModes_setFlag_comp b hpm hmf hg
  same _ := ⟨rfl, rfl⟩

theorem supervisorStatus_pm {s : State} (h : s.plat.hasPrivilege = true) : flag .pm (supervisorStatus s) = false := by
  unfold supervisorStatus
  rw [if_pos h]
  split
  · exact (flag_setFlag_ne (by decide) _ _).trans (flag_setFlag_same _ _ _)
  · exact flag_setFlag_same _ _ _

/-- What a software XOP runs once its operand is addressed leaves PM clear. -/
theorem xopEntry_supervisor (vec wp pc st : Word) (a : Word) :
    Preserves (fun s => flag .pm s.st = false) (do
      contextSwitch vec wp pc st (some a)
      setStatus (setFlag .x true) : Op Unit) fun _ => True :=
  (supervisor_closed.contextSwitch vec wp pc st (some a)).bind fun _ _ =>
    supervisor_closed.status' (supervisor_closed.field .x true (by decide) (by decide))

/-- An XOP without a hardware module ends in privileged state (48_xop_longdistance.md R270). -/
theorem OutsideWindow.execXop_pm {q : Nat} {s t u : State} (h : OutsideWindow s q) {g : GenAddr} {n : BitVec 4}
    (hn : s.plat.xopHardware n = false) (ht : SameWindow q s t) (e : execXop g n t = .next u) : flag .pm u.st = false := by
  unfold execXop at e
  obtain ⟨v, hv, rfl⟩ := complete_eq_next.mp e
  obtain ⟨l, w, hw, hv⟩ := Op.bind_eq_ok.mp hv
  have hsame : SameWindow q s w := (h.closed.operandAddress (by decide) .word g t ht l w hw).1
  have hsoftware : ¬ w.plat.xopHardware n = true := by rw [hsame.plat, hn]; exact Bool.false_ne_true
  rw [Op.get_bind, if_neg hsoftware, Op.update_bind] at hv
  have hentry : flag .pm (w.setSt (supervisorStatus w)).st = false := supervisorStatus_pm (h.hasPrivilege hsame)
  exact (xopEntry_supervisor _ _ _ _ _ _ hentry () v hv).1

/-! ## A step -/

section

variable {q : Nat} {s t u : State}

/-- Every instruction but X, and but an XOP of a hardware module, keeps the window or ends in privileged state. -/
theorem OutsideWindow.exec_of_ne_x (h : OutsideWindow s q) {i : Instr} (hx : ∀ g, i ≠ .x g)
    (hn : ∀ g n, i = .xop g n → s.plat.xopHardware n = false) (ht : SameWindow q s t) (e : exec i t = .next u)
    (hpm : flag .pm u.st = true) : SameWindow q s u := by
  cases hi : isSystem i with
  | false => exact h.closed.exec (fun _ => h.clearLd) hi ht e
  | true =>
    cases i with
    | x g => exact absurd rfl (hx g)
    | xop g n => exact nomatch hpm.symm.trans (h.execXop_pm (hn g n rfl) ht e)
    | limi => exact h.complete (h.whenPrivileged 1 _) ht e
    | idle => exact h.complete (h.whenPrivileged 0 _) ht e
    | rset => exact h.complete (h.control .rset _) ht e
    | ckon => exact h.complete (h.control .ckon _) ht e
    | ckof => exact h.complete (h.control .ckof _) ht e
    | lrex => exact h.complete (h.control .lrex _) ht e
    | rtwp => exact h.complete h.restoreContext ht e
    | lmf m w =>
      refine h.complete (fun v hv a v' e' => ?_) ht e
      unfold withMapOption at e'
      split at e'
      · exact h.whenPrivileged 0 _ v hv a v' e'
      · cases e'
    | lds g =>
      exact completeLatching_preserves (h.longDistance g .src) (by rintro v _ hv rfl; exact h.clearLd hv) ht e
    | ldd g =>
      exact completeLatching_preserves (h.longDistance g .dst) (by rintro v _ hv rfl; exact h.clearLd hv) ht e
    | _ => cases hi

/-- A fetch and execution that answers ran an instruction that is not X, itself or through X (42_branch.md R183), from a state
with the same window. -/
theorem OutsideWindow.fetchAndExecute_runs (h : OutsideWindow s q) (e : fetchAndExecute (sampleInputs s) = .next t) :
    ∃ i u, Runs s i u ∧ (∀ g, i ≠ .x g) ∧ SameWindow q s u ∧ exec i u = .next t := by
  obtain ⟨w, u, i, hfetch, hdecode, e⟩ := fetchAndExecute_next e
  have hu : SameWindow q s u := (h.closed.fetch _ (.sampleInputs s) w u hfetch).1
  by_cases hx : ∃ g, i = .x g
  · obtain ⟨g, rfl⟩ := hx
    obtain ⟨l, ir, v, j, hread, hj, hjx, e⟩ := execX_next e
    have hv : SameWindow q s v := (h.closed.operandWord (by decide) g u hu _ v hread).1
    exact ⟨j, _, ⟨w, u, hfetch, .inr ⟨g, l, ir, v, hdecode, hread, hj, hjx, rfl⟩⟩, hjx, h.clearLd hv, e⟩
  · have hx' : ∀ g, i ≠ .x g := fun g hg => hx ⟨g, hg⟩
    exact ⟨i, u, ⟨w, u, hfetch, .inl ⟨hdecode, hx', rfl⟩⟩, hx', hu, e⟩

end

/-- Settles O60: the step keeps the window, whether it stays idle or executes, and with it the byte. -/
theorem memoryWindow : Obligations.MemoryWindow := by
  intro s t hu hld hpending e hpm hmodule q hr hq
  have h : OutsideWindow s q := ⟨hu, hld, hr, hq⟩
  unfold step cycle at e
  rw [hpending] at e
  dsimp only at e
  split at e
  · cases e
    exact (SameWindow.sampleInputs s).byte
  · obtain ⟨i, u, hruns, hx, hsame, e⟩ := h.fetchAndExecute_runs e
    have hn : ∀ g n, i = .xop g n → s.plat.xopHardware n = false := by
      rintro g n rfl
      exact hmodule g n u hruns
    exact (h.exec_of_ne_x hx hn hsame e hpm).byte

end Sys2Proof.Machine

/-! PROOFS of 30_encoding.md: decoding and encoding are inverse on well-formed instructions (O4, O5), the words written out in
the spec (O6), and the words of no row of the op code map (O7). Each format has one lemma for each direction: a word with the
format's op code is decoded by the format's decoder, and what that decoder answers is encoded by the format's encoder. -/

namespace Sys2Proof

/-! ## Slices of a word -/

/-- Where a mask keeps every bit of a slice, the masked word has that slice. -/
theorem slice_of_masked {w mask row : Word} {start len : Nat} (h : w &&& mask = row)
    (hmask : mask.extractLsb' start len = BitVec.allOnes len) : w.extractLsb' start len = row.extractLsb' start len := by
  rw [← h, BitVec.extractLsb'_and, hmask, BitVec.and_allOnes]

/-- The slice of the last field but one. -/
theorem slice_append_second {u v n : Nat} (x : BitVec u) (y : BitVec v) (z : BitVec n) :
    (x ++ y ++ z).extractLsb' n v = y := by
  rw [BitVec.extractLsb'_append_eq_of_le le_rfl, Nat.sub_self, BitVec.extractLsb'_append_eq_right]

/-- The slice of the last field but two. -/
theorem slice_append_third {u v n : Nat} (x : BitVec u) (y : BitVec v) (z : BitVec n) :
    (x ++ y ++ z).extractLsb' (v + n) u = x := by
  rw [BitVec.extractLsb'_append_eq_of_le (Nat.le_add_left n v), Nat.add_sub_cancel, BitVec.extractLsb'_append_eq_left]

/-- The general address in the low six bits is read back from its mode and its register field (30_encoding.md R92). -/
theorem genAddr_source {g : GenAddr} (h : g.wf = true) (x : BitVec 10) :
    genAddr ((x ++ g.mode ++ g.field).extractLsb' 4 2) ((x ++ g.mode ++ g.field).extractLsb' 0 4) = g := by
  rw [slice_append_second, BitVec.extractLsb'_append_eq_right, genAddr_mode_field h]

/-- A word is the address fields that end it behind its high ten bits. -/
theorem append_source_slices (w : Word) :
    w.extractLsb' 6 10 ++ (genAddr (w.extractLsb' 4 2) (w.extractLsb' 0 4)).mode ++
      (genAddr (w.extractLsb' 4 2) (w.extractLsb' 0 4)).field = w := by
  obtain ⟨-, hmode, hfield⟩ := genAddr_wf (w.extractLsb' 4 2) (w.extractLsb' 0 4)
  rw [hmode, hfield, BitVec.extractLsb'_append_extractLsb'_eq_extractLsb' (start₁ := 4) (len₁ := 2) rfl]
  exact BitVec.extractLsb'_append_extractLsb'

/-! ## The cascade of 30_encoding.md R98: an op code selects its format's decoder -/

section Cascade

variable {w : Word}

/-- The high bits of a word as a number. -/
theorem high_eq_iff {start len : Nat} {x : BitVec len} (h : start + len = 16) :
    w.extractLsb' start len = x ↔ w.toNat / 2 ^ start = x.toNat := by
  have hlt : w.toNat / 2 ^ start < 2 ^ len := Nat.div_lt_of_lt_mul (by rw [← Nat.pow_add, h]; exact w.isLt)
  rw [← BitVec.toNat_inj, BitVec.extractLsb'_toNat, Nat.shiftRight_eq_div_pow, Nat.mod_eq_of_lt hlt]

/-- The conditions of the cascade in numbers. -/
theorem decodeWord_cascade (w : Word) :
    decodeWord w =
      if 4 ≤ w.toNat / 2 ^ 12 then
        decodeTwoAddress (w.extractLsb' 12 4) (genAddr (w.extractLsb' 4 2) (w.extractLsb' 0 4))
          (genAddr (w.extractLsb' 10 2) (w.extractLsb' 6 4))
      else if w.toNat / 2 ^ 13 = 1 then
        decodeAddressAndField (w.extractLsb' 10 6) (genAddr (w.extractLsb' 4 2) (w.extractLsb' 0 4)) (w.extractLsb' 6 4)
      else if w.toNat / 2 ^ 12 = 1 then decodeDisplacement (w.extractLsb' 8 8) (w.extractLsb' 0 8)
      else if w.toNat / 2 ^ 10 = 3 then .error .undefinedOpcode
      else if w.toNat / 2 ^ 10 = 2 then decodeShift (w.extractLsb' 8 8) (w.extractLsb' 4 4) (w.extractLsb' 0 4)
      else if w.toNat / 2 ^ 10 = 1 then
        decodeOneAddress (w.extractLsb' 6 10) (genAddr (w.extractLsb' 4 2) (w.extractLsb' 0 4))
      else if w.toNat / 2 ^ 9 = 1 then
        decodeImmediateAndControl (w.extractLsb' 5 11) (w.extractLsb' 4 1) (w.extractLsb' 0 4)
      else .error .undefinedOpcode := by
  have opcode : (w.extractLsb' 12 4).toNat = w.toNat / 2 ^ 12 := ((high_eq_iff rfl).mp rfl).symm
  have top3 : w.extractLsb' 13 3 = 1 ↔ w.toNat / 2 ^ 13 = 1 := high_eq_iff rfl
  have top4 : w.extractLsb' 12 4 = 1 ↔ w.toNat / 2 ^ 12 = 1 := high_eq_iff rfl
  have shift : w.extractLsb' 10 6 = 2 ↔ w.toNat / 2 ^ 10 = 2 := high_eq_iff rfl
  have unused : w.extractLsb' 10 6 = 3 ↔ w.toNat / 2 ^ 10 = 3 := high_eq_iff rfl
  have address : w.extractLsb' 10 6 = 1 ↔ w.toNat / 2 ^ 10 = 1 := high_eq_iff rfl
  have control : w.extractLsb' 9 7 = 1 ↔ w.toNat / 2 ^ 9 = 1 := high_eq_iff rfl
  simp only [decodeWord, opcode, top3, top4, shift, unused, address, control]

/-- Format I (30_encoding.md R82). -/
theorem decodeWord_of_twoAddress {op : BitVec 4} (h : w.extractLsb' 12 4 = op) (hop : 4 ≤ op.toNat) :
    decodeWord w = decodeTwoAddress op (genAddr (w.extractLsb' 4 2) (w.extractLsb' 0 4))
      (genAddr (w.extractLsb' 10 2) (w.extractLsb' 6 4)) := by
  have hw := (high_eq_iff rfl).mp h
  subst h
  rw [decodeWord_cascade, if_pos (by omega)]

/-- Formats III, IV and IX (30_encoding.md R84, R85, R90). -/
theorem decodeWord_of_addressAndField {op : BitVec 6} (h : w.extractLsb' 10 6 = op) (hop : op.toNat / 8 = 1) :
    decodeWord w = decodeAddressAndField op (genAddr (w.extractLsb' 4 2) (w.extractLsb' 0 4)) (w.extractLsb' 6 4) := by
  have hw := (high_eq_iff rfl).mp h
  subst h
  rw [decodeWord_cascade, if_neg (by omega), if_pos (by omega)]

/-- Format II (30_encoding.md R83). -/
theorem decodeWord_of_displacement {op : BitVec 8} (h : w.extractLsb' 8 8 = op) (hop : op.toNat / 16 = 1) :
    decodeWord w = decodeDisplacement op (w.extractLsb' 0 8) := by
  have hw := (high_eq_iff rfl).mp h
  subst h
  rw [decodeWord_cascade, if_neg (by omega), if_neg (by omega), if_pos (by omega)]

/-- Format V (30_encoding.md R86). -/
theorem decodeWord_of_shift {op : BitVec 8} (h : w.extractLsb' 8 8 = op) (hop : op.toNat / 4 = 2) :
    decodeWord w = decodeShift op (w.extractLsb' 4 4) (w.extractLsb' 0 4) := by
  have hw := (high_eq_iff rfl).mp h
  subst h
  rw [decodeWord_cascade, if_neg (by omega), if_neg (by omega), if_neg (by omega), if_neg (by omega), if_pos (by omega)]

/-- Format VI (30_encoding.md R87). -/
theorem decodeWord_of_oneAddress {op : BitVec 10} (h : w.extractLsb' 6 10 = op) (hop : op.toNat / 16 = 1) :
    decodeWord w = decodeOneAddress op (genAddr (w.extractLsb' 4 2) (w.extractLsb' 0 4)) := by
  have hw := (high_eq_iff rfl).mp h
  subst h
  rw [decodeWord_cascade, if_neg (by omega), if_neg (by omega), if_neg (by omega), if_neg (by omega), if_neg (by omega),
    if_pos (by omega)]

/-- Formats VII, VIII and X (30_encoding.md R88, R89, R91). -/
theorem decodeWord_of_immediateAndControl {op : BitVec 11} {m : BitVec 1} {r : Reg} (h : w.extractLsb' 5 11 = op)
    (hm : w.extractLsb' 4 1 = m) (hr : w.extractLsb' 0 4 = r) (hop : op.toNat / 16 = 1) :
    decodeWord w = decodeImmediateAndControl op m r := by
  have hw := (high_eq_iff rfl).mp h
  subst h hm hr
  rw [decodeWord_cascade, if_neg (by omega), if_neg (by omega), if_neg (by omega), if_neg (by omega), if_neg (by omega),
    if_neg (by omega), if_pos (by omega)]

end Cascade

/-! ## An encoded word is decoded by its format's decoder -/

theorem decodeWord_encodeTwoAddress {op : BitVec 4} {gs gd : GenAddr} (hop : 4 ≤ op.toNat) (hs : gs.wf = true)
    (hd : gd.wf = true) : decodeWord (encodeTwoAddress op gs gd) = decodeTwoAddress op gs gd := by
  have opcode : (encodeTwoAddress op gs gd).extractLsb' 12 4 = op :=
    (slice_of_masked (maskedTwoAddress op gs gd) rfl).trans BitVec.extractLsb'_append_eq_left
  have mode : (encodeTwoAddress op gs gd).extractLsb' 10 2 = gd.mode :=
    (BitVec.extractLsb'_append_eq_of_le (by decide)).trans
      ((BitVec.extractLsb'_append_eq_of_le (by decide)).trans (slice_append_second op gd.mode gd.field))
  have field : (encodeTwoAddress op gs gd).extractLsb' 6 4 = gd.field :=
    (BitVec.extractLsb'_append_eq_of_le (by decide)).trans (slice_append_second _ gd.field gs.mode)
  rw [decodeWord_of_twoAddress opcode hop, mode, field, genAddr_mode_field hd, encodeTwoAddress, genAddr_source hs]

theorem decodeWord_encodeAddressAndField {op : BitVec 6} {g : GenAddr} {d : BitVec 4} (hop : op.toNat / 8 = 1)
    (hg : g.wf = true) : decodeWord (encodeAddressAndField op g d) = decodeAddressAndField op g d := by
  have opcode : (encodeAddressAndField op g d).extractLsb' 10 6 = op :=
    (slice_of_masked (maskedAddressAndField op g d) rfl).trans BitVec.extractLsb'_append_eq_left
  have field : (encodeAddressAndField op g d).extractLsb' 6 4 = d :=
    (BitVec.extractLsb'_append_eq_of_le (by decide)).trans (slice_append_second op d g.mode)
  rw [decodeWord_of_addressAndField opcode hop, field, encodeAddressAndField, genAddr_source hg]

theorem decodeWord_encodeDisplacement {op disp : BitVec 8} (hop : op.toNat / 16 = 1) :
    decodeWord (encodeDisplacement op disp) = decodeDisplacement op disp := by
  have opcode : (encodeDisplacement op disp).extractLsb' 8 8 = op := BitVec.extractLsb'_append_eq_left
  have low : (encodeDisplacement op disp).extractLsb' 0 8 = disp := BitVec.extractLsb'_append_eq_right
  rw [decodeWord_of_displacement opcode hop, low]

theorem decodeWord_encodeShift {op : BitVec 8} {w c : BitVec 4} (hop : op.toNat / 4 = 2) :
    decodeWord (encodeShift op w c) = decodeShift op c w := by
  have opcode : (encodeShift op w c).extractLsb' 8 8 = op := slice_append_third op c w
  have count : (encodeShift op w c).extractLsb' 4 4 = c := slice_append_second op c w
  have register : (encodeShift op w c).extractLsb' 0 4 = w := BitVec.extractLsb'_append_eq_right
  rw [decodeWord_of_shift opcode hop, count, register]

theorem decodeWord_encodeOneAddress {op : BitVec 10} {g : GenAddr} (hop : op.toNat / 16 = 1) (hg : g.wf = true) :
    decodeWord (encodeOneAddress op g) = decodeOneAddress op g := by
  have opcode : (encodeOneAddress op g).extractLsb' 6 10 = op := slice_append_third op g.mode g.field
  rw [decodeWord_of_oneAddress opcode hop, encodeOneAddress, genAddr_source hg]

theorem decodeWord_encodeImmediateAndControl {op : BitVec 11} {m : BitVec 1} {w : Reg} (hop : op.toNat / 16 = 1) :
    decodeWord (encodeImmediateAndControl op m w) = decodeImmediateAndControl op m w :=
  decodeWord_of_immediateAndControl (slice_append_third op m w) (slice_append_second op m w)
    BitVec.extractLsb'_append_eq_right hop

/-- An instruction is well formed when its general addresses are (10_state.md R23). -/
theorem Instr.wf_iff {i : Instr} : i.wf = true ↔ ∀ g ∈ i.operands, g.wf = true := List.all_eq_true

/-- A well-formed instruction is decoded from its encoding (30_encoding.md R98, R99). -/
theorem decodeWord_encode {i : Instr} (h : i.wf = true) : decodeWord (encode i) = .ok i := by
  rw [Instr.wf_iff] at h
  cases i with
  | szc gs gd | szcb gs gd | s gs gd | sb gs gd | c gs gd | cb gs gd | a gs gd | ab gs gd | mov gs gd | movb gs gd
  | soc gs gd | socb gs gd =>
    exact decodeWord_encodeTwoAddress (by decide) (h gs (.head _)) (h gd (.tail _ (.head _)))
  | coc g d | czc g d | xor g d | xop g d | ldcr g d | stcr g d | mpy g d | div g d =>
    exact decodeWord_encodeAddressAndField (by decide) (h g (.head _))
  | jmp d | jlt d | jle d | jeq d | jhe d | jgt d | jne d | jnc d | joc d | jno d | jl d | jh d | jop d | sbo d | sbz d
  | tb d => exact decodeWord_encodeDisplacement (by decide)
  | sra w c | srl w c | sla w c | src w c => exact decodeWord_encodeShift (by decide)
  | blwp g | b g | x g | clr g | neg g | inv g | inc g | inct g | dec g | dect g | bl g | swpb g | seto g | abs g | lds g
  | ldd g => exact decodeWord_encodeOneAddress (by decide) (h g (.head _))
  | li w | ai w | andi w | ori w | ci w | stwp w | stst w | lmf m w => exact decodeWord_encodeImmediateAndControl (by decide)
  | lwpi | limi | idle | rset | rtwp | ckon | ckof | lrex => exact decodeWord_encodeImmediateAndControl (by decide)

/-! ## What a format's decoder answers is encoded by its encoder -/

section Answers

variable {i : Instr}

theorem encode_of_decodeTwoAddress {op : BitVec 4} {gs gd : GenAddr} (h : decodeTwoAddress op gs gd = .ok i) :
    encode i = encodeTwoAddress op gs gd ∧ i.operands = [gs, gd] := by
  unfold decodeTwoAddress at h
  split at h <;> cases h
  all_goals
    next hop => exact ⟨congrArg (encodeTwoAddress · gs gd) (BitVec.eq_of_toNat_eq hop.symm), rfl⟩

theorem encode_of_decodeAddressAndField {op : BitVec 6} {g : GenAddr} {d : BitVec 4}
    (h : decodeAddressAndField op g d = .ok i) : encode i = encodeAddressAndField op g d ∧ i.operands = [g] := by
  unfold decodeAddressAndField at h
  split at h <;> cases h
  all_goals
    next hop => exact ⟨congrArg (encodeAddressAndField · g d) (BitVec.eq_of_toNat_eq hop.symm), rfl⟩

theorem encode_of_decodeDisplacement {op disp : BitVec 8} (h : decodeDisplacement op disp = .ok i) :
    encode i = encodeDisplacement op disp ∧ i.operands = [] := by
  unfold decodeDisplacement at h
  split at h <;> cases h
  all_goals
    next hop => exact ⟨congrArg (encodeDisplacement · disp) (BitVec.eq_of_toNat_eq hop.symm), rfl⟩

theorem encode_of_decodeShift {op : BitVec 8} {c w : BitVec 4} (h : decodeShift op c w = .ok i) :
    encode i = encodeShift op w c ∧ i.operands = [] := by
  unfold decodeShift at h
  split at h <;> cases h
  all_goals
    next hop => exact ⟨congrArg (encodeShift · w c) (BitVec.eq_of_toNat_eq hop.symm), rfl⟩

theorem encode_of_decodeOneAddress {op : BitVec 10} {g : GenAddr} (h : decodeOneAddress op g = .ok i) :
    encode i = encodeOneAddress op g ∧ i.operands = [g] := by
  unfold decodeOneAddress at h
  split at h <;> cases h
  all_goals
    next hop => exact ⟨congrArg (encodeOneAddress · g) (BitVec.eq_of_toNat_eq hop.symm), rfl⟩

/-- The instruction, and only where the bits outside its fields are zero (30_encoding.md R109). -/
theorem whenZero_eq_ok {outside : Bool} {j : Instr} : whenZero outside j = .ok i ↔ outside = true ∧ j = i := by
  cases outside <;> simp [whenZero]

theorem encode_of_decodeImmediateAndControl {op : BitVec 11} {m : BitVec 1} {w : Reg}
    (h : decodeImmediateAndControl op m w = .ok i) :
    encode i = encodeImmediateAndControl op m w ∧ i.operands = [] := by
  unfold decodeImmediateAndControl at h
  split at h
  case h_17 => cases h
  case h_10 hop =>
    cases h
    exact ⟨congrArg (encodeImmediateAndControl · m w) (BitVec.eq_of_toNat_eq hop.symm), rfl⟩
  case h_1 hop | h_2 hop | h_3 hop | h_4 hop | h_5 hop | h_6 hop | h_7 hop =>
    rw [whenZero_eq_ok, beq_iff_eq] at h
    obtain ⟨rfl, rfl⟩ := h
    exact ⟨congrArg (encodeImmediateAndControl · 0 w) (BitVec.eq_of_toNat_eq hop.symm), rfl⟩
  all_goals
    next hop =>
      rw [whenZero_eq_ok, Bool.and_eq_true, beq_iff_eq, beq_iff_eq] at h
      obtain ⟨⟨rfl, rfl⟩, rfl⟩ := h
      exact ⟨congrArg (encodeImmediateAndControl · 0 0) (BitVec.eq_of_toNat_eq hop.symm), rfl⟩

end Answers

/-! ## The slices a decoder reads make up the word -/

theorem encodeTwoAddress_slices (w : Word) :
    encodeTwoAddress (w.extractLsb' 12 4) (genAddr (w.extractLsb' 4 2) (w.extractLsb' 0 4))
      (genAddr (w.extractLsb' 10 2) (w.extractLsb' 6 4)) = w := by
  obtain ⟨-, hmode, hfield⟩ := genAddr_wf (w.extractLsb' 10 2) (w.extractLsb' 6 4)
  rw [encodeTwoAddress, hmode, hfield, BitVec.extractLsb'_append_extractLsb'_eq_extractLsb' (start₁ := 10) (len₁ := 2) rfl,
    BitVec.extractLsb'_append_extractLsb'_eq_extractLsb' (start₁ := 6) (len₁ := 4) rfl]
  exact append_source_slices w

theorem encodeAddressAndField_slices (w : Word) :
    encodeAddressAndField (w.extractLsb' 10 6) (genAddr (w.extractLsb' 4 2) (w.extractLsb' 0 4)) (w.extractLsb' 6 4) = w := by
  rw [encodeAddressAndField, BitVec.extractLsb'_append_extractLsb'_eq_extractLsb' (start₁ := 6) (len₁ := 4) rfl]
  exact append_source_slices w

theorem encodeDisplacement_slices (w : Word) : encodeDisplacement (w.extractLsb' 8 8) (w.extractLsb' 0 8) = w :=
  BitVec.extractLsb'_append_extractLsb'

theorem encodeShift_slices (w : Word) : encodeShift (w.extractLsb' 8 8) (w.extractLsb' 0 4) (w.extractLsb' 4 4) = w := by
  rw [encodeShift, BitVec.extractLsb'_append_extractLsb'_eq_extractLsb' (start₁ := 4) (len₁ := 4) rfl]
  exact BitVec.extractLsb'_append_extractLsb'

theorem encodeImmediateAndControl_slices (w : Word) :
    encodeImmediateAndControl (w.extractLsb' 5 11) (w.extractLsb' 4 1) (w.extractLsb' 0 4) = w := by
  rw [encodeImmediateAndControl, BitVec.extractLsb'_append_extractLsb'_eq_extractLsb' (start₁ := 4) (len₁ := 1) rfl]
  exact BitVec.extractLsb'_append_extractLsb'

/-- What a word decodes to is well formed and encoded by that word (30_encoding.md R98, R109). -/
theorem encode_of_decodeWord {w : Word} {i : Instr} (h : decodeWord w = .ok i) : i.wf = true ∧ encode i = w := by
  have source := (genAddr_wf (w.extractLsb' 4 2) (w.extractLsb' 0 4)).1
  have dest := (genAddr_wf (w.extractLsb' 10 2) (w.extractLsb' 6 4)).1
  unfold decodeWord at h
  split at h
  · obtain ⟨he, ho⟩ := encode_of_decodeTwoAddress h
    exact ⟨by simp [Instr.wf, ho, source, dest], he.trans (encodeTwoAddress_slices w)⟩
  split at h
  · obtain ⟨he, ho⟩ := encode_of_decodeAddressAndField h
    exact ⟨by simp [Instr.wf, ho, source], he.trans (encodeAddressAndField_slices w)⟩
  split at h
  · obtain ⟨he, ho⟩ := encode_of_decodeDisplacement h
    exact ⟨by simp [Instr.wf, ho], he.trans (encodeDisplacement_slices w)⟩
  split at h
  · cases h
  split at h
  · obtain ⟨he, ho⟩ := encode_of_decodeShift h
    exact ⟨by simp [Instr.wf, ho], he.trans (encodeShift_slices w)⟩
  split at h
  · obtain ⟨he, ho⟩ := encode_of_decodeOneAddress h
    exact ⟨by simp [Instr.wf, ho, source], he.trans (append_source_slices w)⟩
  split at h
  · obtain ⟨he, ho⟩ := encode_of_decodeImmediateAndControl h
    exact ⟨by simp [Instr.wf, ho], he.trans (encodeImmediateAndControl_slices w)⟩
  · cases h

/-- Decoding one word is the inverse of encoding a well-formed instruction (30_encoding.md R98, R99). -/
theorem decodeWord_eq_ok_iff {w : Word} {i : Instr} : decodeWord w = .ok i ↔ i.wf = true ∧ encode i = w := by
  refine ⟨encode_of_decodeWord, ?_⟩
  rintro ⟨hwf, rfl⟩
  exact decodeWord_encode hwf

/-! ## Bytes and words (20_memory.md R55) -/

/-- The bytes of words, with any bytes behind them, are read as those words first. -/
theorem wordsOfBytes_flatMap_append (ws : List Word) (rest : List Byte) :
    wordsOfBytes (ws.flatMap bytesOfWord ++ rest) = ws ++ wordsOfBytes rest := by
  induction ws with
  | nil => rfl
  | cons w ws ih =>
    have hw : w.extractLsb' 8 8 ++ w.extractLsb' 0 8 = w := encodeDisplacement_slices w
    simp [bytesOfWord, wordsOfBytes, hw, ih]

/-- The bytes of the first words of a list of bytes are the front of that list. -/
theorem flatMap_take_wordsOfBytes (bs : List Byte) (n : Nat) (h : n ≤ (wordsOfBytes bs).length) :
    ((wordsOfBytes bs).take n).flatMap bytesOfWord = bs.take (2 * n) := by
  induction bs using wordsOfBytes.induct generalizing n with
  | case1 hi lo rest ih =>
    cases n with
    | zero => rfl
    | succ n =>
      have hhi : (hi ++ lo).extractLsb' 8 8 = hi := BitVec.extractLsb'_append_eq_left
      have hlo : (hi ++ lo).extractLsb' 0 8 = lo := BitVec.extractLsb'_append_eq_right
      have hrest := ih n (Nat.le_of_succ_le_succ h)
      simp [wordsOfBytes, bytesOfWord, Nat.mul_succ, hhi, hlo, hrest]
  | case2 bs hbs =>
    have hn : n = 0 := by simpa [wordsOfBytes] using h
    simp [hn]

/-! ## Whole instructions (30_encoding.md R80) -/

/-- Decoding answers the instruction of the first word, with as many of the words behind it as its fields imply. -/
theorem decode_eq_ok_iff {bs : List Byte} {a : Assembled} :
    decode bs = .ok a ↔ ∃ ir rest, wordsOfBytes bs = ir :: rest ∧ decodeWord ir = .ok a.instr ∧
      a.instr.extWords ≤ rest.length ∧ a.ext = rest.take a.instr.extWords := by
  constructor
  · intro h
    unfold decode at h
    split at h
    · cases h
    next ir rest hwords =>
      split at h
      · cases h
      next i hdecode =>
        split at h
        · cases h
          exact ⟨ir, rest, hwords, hdecode, ‹_›, rfl⟩
        · cases h
  · rintro ⟨ir, rest, hwords, hdecode, hle, hext⟩
    simp only [decode, hwords, hdecode, if_pos hle, ← hext]

theorem Assembled.wf_iff {a : Assembled} : a.wf = true ↔ a.instr.wf = true ∧ a.ext.length = a.instr.extWords := by
  rw [Assembled.wf, Bool.and_eq_true, beq_iff_eq]

/-- Settles O4: the words of the bytes are the encoding and the extension words before any others, and a well-formed instruction
is decoded from its encoding. -/
theorem decodeEncodeAgree : Obligations.DecodeEncodeAgree := by
  intro a rest h
  obtain ⟨hwf, hlen⟩ := Assembled.wf_iff.mp h
  refine decode_eq_ok_iff.mpr ⟨encode a.instr, a.ext ++ wordsOfBytes rest, ?_, decodeWord_encode hwf, ?_, ?_⟩
  · exact wordsOfBytes_flatMap_append (encode a.instr :: a.ext) rest
  · rw [← hlen, List.length_append]
    exact Nat.le_add_right _ _
  · rw [← hlen, List.take_left]

/-- Settles O5: the first word is the encoding of what it decodes to, and the bytes of the words taken are the front of the
list. -/
theorem encodeDecodeAgree : Obligations.EncodeDecodeAgree := by
  intro bs a h
  obtain ⟨ir, rest, hwords, hdecode, hle, hext⟩ := decode_eq_ok_iff.mp h
  obtain ⟨hwf, rfl⟩ := encode_of_decodeWord hdecode
  have hlen : a.ext.length = a.instr.extWords := by rw [hext, List.length_take, Nat.min_eq_left hle]
  have htake : encode a.instr :: a.ext = (wordsOfBytes bs).take (1 + a.ext.length) := by
    rw [hwords, Nat.add_comm, List.take_succ_cons, hlen, ← hext]
  refine ⟨Assembled.wf_iff.mpr ⟨hwf, hlen⟩, ?_, hlen⟩
  rw [encodeBytes, htake, flatMap_take_wordsOfBytes]
  rw [hwords, List.length_cons, hlen, Nat.add_comm]
  exact Nat.succ_le_succ hle

/-- Settles O6: each word is the encoding of its instruction. -/
theorem decodedWords : Obligations.DecodedWords := by
  refine ⟨?_, ?_, ?_, ?_, ?_, ?_, ?_, ?_, ?_, ?_, ?_, ?_, ?_⟩ <;> exact decodeWord_eq_ok_iff.mpr ⟨rfl, rfl⟩

/-! ## The rows of the op code map (30_encoding.md R99) -/

/-- An encoded instruction is of its row. -/
theorem encode_row (i : Instr) : encode i &&& (opcodeRow i).2 = (opcodeRow i).1 := by
  cases i with
  | szc gs gd | szcb gs gd | s gs gd | sb gs gd | c gs gd | cb gs gd | a gs gd | ab gs gd | mov gs gd | movb gs gd
  | soc gs gd | socb gs gd => exact maskedTwoAddress _ gs gd
  | coc g d | czc g d | xor g d | xop g d | ldcr g d | stcr g d | mpy g d | div g d => exact maskedAddressAndField _ g d
  | jmp d | jlt d | jle d | jeq d | jhe d | jgt d | jne d | jnc d | joc d | jno d | jl d | jh d | jop d | sbo d | sbz d
  | tb d => exact maskedDisplacement _ d
  | sra w c | srl w c | sla w c | src w c => exact maskedShift _ w c
  | blwp g | b g | x g | clr g | neg g | inv g | inc g | inct g | dec g | dect g | bl g | swpb g | seto g | abs g | lds g
  | ldd g => exact maskedOneAddress _ g
  | li w | ai w | andi w | ori w | ci w | stwp w | stst w => exact maskedImmediate _ w
  | lmf m w => exact maskedControl _ m w
  | lwpi | limi | idle | rset | rtwp | ckon | ckof | lrex => rfl

/-- A word of a row has the row's op code, which its format's decoder accepts. -/
theorem decodeWord_of_row {w : Word} {i : Instr} (h : w &&& (opcodeRow i).2 = (opcodeRow i).1) :
    ∃ j, decodeWord w = .ok j := by
  cases i <;> dsimp only [opcodeRow] at h
  case szc | szcb | s | sb | c | cb | a | ab | mov | movb | soc | socb =>
    exact ⟨_, decodeWord_of_twoAddress (slice_of_masked h rfl) (by decide)⟩
  case coc | czc | xor | xop | ldcr | stcr | mpy | div =>
    exact ⟨_, decodeWord_of_addressAndField (slice_of_masked h rfl) (by decide)⟩
  case jmp | jlt | jle | jeq | jhe | jgt | jne | jnc | joc | jno | jl | jh | jop | sbo | sbz | tb =>
    exact ⟨_, decodeWord_of_displacement (slice_of_masked h rfl) (by decide)⟩
  case sra | srl | sla | src => exact ⟨_, decodeWord_of_shift (slice_of_masked h rfl) (by decide)⟩
  case blwp | b | x | clr | neg | inv | inc | inct | dec | dect | bl | swpb | seto | abs | lds | ldd =>
    exact ⟨_, decodeWord_of_oneAddress (slice_of_masked h rfl) (by decide)⟩
  case lmf => exact ⟨_, decodeWord_of_immediateAndControl (slice_of_masked h rfl) rfl rfl (by decide)⟩
  case li | ai | andi | ori | ci | stwp | stst =>
    exact ⟨_, decodeWord_of_immediateAndControl (slice_of_masked h rfl) (slice_of_masked h rfl) rfl (by decide)⟩
  case lwpi | limi | idle | rset | rtwp | ckon | ckof | lrex =>
    exact ⟨_, decodeWord_of_immediateAndControl (slice_of_masked h rfl) (slice_of_masked h rfl) (slice_of_masked h rfl)
      (by decide)⟩

/-- A word decodes to nothing exactly when it is of no row (30_encoding.md R99, R108, R109). -/
theorem decodeWord_eq_error_iff {w : Word} :
    (∃ e, decodeWord w = .error e) ↔ ∀ i : Instr, w &&& (opcodeRow i).2 ≠ (opcodeRow i).1 := by
  constructor
  · rintro ⟨e, he⟩ i hrow
    obtain ⟨j, hj⟩ := decodeWord_of_row hrow
    exact nomatch he.symm.trans hj
  · intro hrows
    cases hd : decodeWord w with
    | error e => exact ⟨e, rfl⟩
    | ok i =>
      obtain ⟨-, rfl⟩ := encode_of_decodeWord hd
      exact absurd (encode_row i) (hrows i)

/-- Settles O7: the words of no row decode to nothing, and a step that fetches one stops at the decoder. -/
theorem undefinedOpcodes : Obligations.UndefinedOpcodes := by
  refine ⟨fun _ => decodeWord_eq_error_iff, ?_⟩
  intro s s1 w hpending hidle hfetch hrows
  obtain ⟨e, he⟩ := decodeWord_eq_error_iff.mpr hrows
  simp [Machine.step, Machine.cycle, Machine.fetchAndExecute, hpending, hidle, hfetch, he]

end Sys2Proof

/-! PROOFS of 40_addressing.md: the operand of each mode (O16, O17), what its evaluation can change (O18), the forms the spec
refuses (O19), and the instruction a step runs (O8). An operand is an effective address, the access to it if it is read, and the
autoincrement; what each of the three answers is said once, and the operand lemmas put them together. -/

namespace Sys2Proof.Machine

/-! ## Memory does not depend on PC -/

@[simp] theorem holdsWord_setPc {s : State} {pc : Word} {f : MapNo} {a v : Word} :
    HoldsWord (s.setPc pc) f a v ↔ HoldsWord s f a v := by
  unfold HoldsWord
  rw [place_congr (s := s) (t := s.setPc pc) rfl rfl rfl rfl, State.setPc_mem]

@[simp] theorem holdsByte_setPc {s : State} {pc : Word} {f : MapNo} {a : Word} {v : Byte} :
    HoldsByte (s.setPc pc) f a v ↔ HoldsByte s f a v := by
  unfold HoldsByte
  rw [place_congr (s := s) (t := s.setPc pc) rfl rfl rfl rfl, State.setPc_mem]

/-! ## The effective address (40_addressing.md R121 to R126) -/

section

variable {s t u : State} {g : GenAddr} {r : Reg} {a b v : Word} {c : Byte} {size : Size}

/-- A register that is a RAM or ROM word is read as it stands after the environment's turn. -/
theorem readReg_ok (h : HoldsWord s.turn (currentMap s) (regAddress s r) a) : readReg r s = .ok (a, s.turn) :=
  h.read

/-- Reading a register does not look at PC. -/
theorem readReg_setPc (h : HoldsWord s.turn (currentMap s) (regAddress s r) a) (pc : Word) :
    readReg r (s.setPc pc) = .ok (a, s.turn.setPc pc) :=
  readReg_ok (s := s.setPc pc) ((holdsWord_setPc (s := s.turn) (pc := pc)).mpr h)

theorem readReg_frame (h : readReg r s = .ok (a, t)) : ReadFrame s t ∧ t.pc = s.pc :=
  readWord_frame (f := currentMap s) h

theorem ReadFrame.regAddress (h : ReadFrame s t) (r : Reg) : regAddress t r = regAddress s r := by
  unfold Machine.regAddress
  rw [h.wp]

/-- A read frame moves no register. -/
theorem ReadFrame.registerPlace (h : ReadFrame s t) (r : Reg) :
    Machine.place t (Machine.currentMap t) (evenAddress (Machine.regAddress t r)) =
      Machine.place s (Machine.currentMap s) (evenAddress (Machine.regAddress s r)) := by
  rw [h.place, h.currentMap, h.regAddress]

theorem ReadFrame.operandMap (h : ReadFrame s t) (side : LongDistance) (g : GenAddr) :
    operandMap t side g = operandMap s side g := by
  unfold Machine.operandMap
  rw [h.ld, h.currentMap]

/-- Indexed addressing adds the register to the word at PC (40_addressing.md R124). -/
theorem effectiveAddress_idx (hb : HoldsWord s.turn (currentMap s) s.pc b)
    (ha : HoldsWord s.turn.turn (currentMap s) (regAddress s r) a) :
    effectiveAddress (.idx r) s = .ok (b + a, s.turn.turn.setPc (evenAddress (s.pc + 2))) := by
  simp only [effectiveAddress]
  rw [Op.bind_ok hb.fetch, Op.bind_ok (readReg_setPc (s := s.turn) ha _)]
  rfl

/-- Mode 3 is mode 1 but for the test of the register against what it addresses (40_addressing.md R125, R126). -/
theorem effectiveAddress_inc (h : readReg r s = .ok (a, t)) :
    effectiveAddress (.inc r) s =
      if evenAddress a = evenAddress (regAddress s r) then .error (.refusal .autoincrementSelfReference) else .ok (a, t) := by
  simp only [effectiveAddress]
  rw [Op.bind_ok h, Op.get_bind, selfReference, (readReg_frame h).1.regAddress]
  by_cases hself : evenAddress a = evenAddress (regAddress s r) <;> simp [hself]

/-- The evaluation of an address reads memory and moves PC past an extension word (40_addressing.md R121). -/
theorem effectiveAddress_frame (h : effectiveAddress g s = .ok (a, t)) :
    ReadFrame s t ∧ t.pc = if g.extWords = 0 then s.pc else evenAddress (s.pc + 2) := by
  cases g with
  | reg r => cases h; exact ⟨.refl s, rfl⟩
  | ind r => exact readReg_frame h
  | sym => exact fetch_frame h
  | idx r =>
    obtain ⟨b, s1, hfetch, h⟩ := Op.bind_eq_ok.mp h
    obtain ⟨x, s2, hread, h⟩ := Op.bind_eq_ok.mp h
    cases h
    obtain ⟨hframe, hpc⟩ := fetch_frame hfetch
    obtain ⟨hframe', hpc'⟩ := readReg_frame hread
    exact ⟨hframe.trans hframe', hpc'.trans hpc⟩
  | inc r =>
    obtain ⟨x, s1, hread, -⟩ := Op.bind_eq_ok.mp h
    rw [effectiveAddress_inc hread] at h
    split at h
    · cases h
    · cases h
      exact readReg_frame hread

/-! ## The autoincrement (40_addressing.md R125) -/

theorem autoincrement_of_ne_inc (hg : ∀ r, g ≠ .inc r) (size : Size) (a : Word) (s : State) :
    autoincrement g size a s = .ok ((), s) := by
  cases g with
  | inc r => exact absurd rfl (hg r)
  | _ => rfl

/-- The register of mode 3 is stored with the operand's size added, at its place as the operand's reads leave it. -/
theorem autoincrement_inc {k : Config.RegionKind} {p : Nat} (hread : ReadFrame s t)
    (hp : place s (currentMap s) (evenAddress (regAddress s r)) = .ok (k, p)) (size : Size) (a : Word) :
    autoincrement (.inc r) size a t = .ok ((), storedWord k p (a + size.bytes) t) :=
  writeReg_ok ((hread.registerPlace r).trans hp) _

/-- The autoincrement stores one word, at the place of the register of mode 3. -/
theorem autoincrement_eq_ok (h : autoincrement g size a s = .ok ((), t)) :
    (∀ r, g ≠ .inc r) ∧ t = s ∨
    ∃ r k p, g = .inc r ∧ place s (currentMap s) (evenAddress (regAddress s r)) = .ok (k, p) ∧
      t = storedWord k p (a + size.bytes) s := by
  cases g with
  | inc r =>
    change writeWord (currentMap s) (regAddress s r) (a + size.bytes) s = _ at h
    rw [writeWord_apply] at h
    cases hp : place s (currentMap s) (evenAddress (regAddress s r)) with
    | error e => rw [hp] at h; cases h
    | ok kp =>
      obtain ⟨k, p⟩ := kp
      rw [hp] at h
      cases h
      exact .inr ⟨r, k, p, rfl, hp, rfl⟩
  | _ => cases h; exact .inl ⟨nofun, rfl⟩

/-! ## Operands (40_addressing.md R120) -/

variable {side : LongDistance} {l : Loc}

theorem locate_eq_ok_iff :
    locate side g s = .ok (l, t) ↔ effectiveAddress g s = .ok (l.addr, t) ∧ l.file = operandMap s side g := by
  unfold locate
  rw [Op.bind_eq_ok]
  constructor
  · rintro ⟨a, s1, h, e⟩
    cases e
    exact ⟨h, (effectiveAddress_frame h).1.operandMap side g⟩
  · rintro ⟨h, hfile⟩
    exact ⟨l.addr, t, h, by rw [(effectiveAddress_frame h).1.operandMap, ← hfile]⟩

/-- An addressed operand is located, then incremented. -/
theorem operandAddress_eq_ok_iff :
    operandAddress side size g s = .ok (l, u) ↔
      ∃ t, locate side g s = .ok (l, t) ∧ autoincrement g size l.addr t = .ok ((), u) := by
  unfold operandAddress
  simp only [Op.bind_eq_ok, Op.pure_apply]
  constructor
  · rintro ⟨l', t, hl, ⟨⟩, u', hi, e⟩
    cases e
    exact ⟨t, hl, hi⟩
  · rintro ⟨t, hl, hi⟩
    exact ⟨l, t, hl, (), u, hi, rfl⟩

/-- A word operand is located, read, then incremented. -/
theorem operandWord_eq_ok_iff :
    operandWord side g s = .ok ((l, v), u) ↔
      ∃ t t', locate side g s = .ok (l, t) ∧ readWord l.file l.addr t = .ok (v, t') ∧
        autoincrement g .word l.addr t' = .ok ((), u) := by
  unfold operandWord
  simp only [Op.bind_eq_ok, Op.pure_apply]
  constructor
  · rintro ⟨l', t, hl, v', t', hread, ⟨⟩, u', hi, e⟩
    cases e
    exact ⟨t, t', hl, hread, hi⟩
  · rintro ⟨t, t', hl, hread, hi⟩
    exact ⟨l, t, hl, v, t', hread, (), u, hi, rfl⟩

/-- A byte operand is located, read, then incremented. -/
theorem operandByte_eq_ok_iff :
    operandByte side g s = .ok ((l, c), u) ↔
      ∃ t t', locate side g s = .ok (l, t) ∧ readByte l.file l.addr t = .ok (c, t') ∧
        autoincrement g .byte l.addr t' = .ok ((), u) := by
  unfold operandByte
  simp only [Op.bind_eq_ok, Op.pure_apply]
  constructor
  · rintro ⟨l', t, hl, v', t', hread, ⟨⟩, u', hi, e⟩
    cases e
    exact ⟨t, t', hl, hread, hi⟩
  · rintro ⟨t, t', hl, hread, hi⟩
    exact ⟨l, t, hl, c, t', hread, (), u, hi, rfl⟩

/-- The three ways to evaluate an operand that increments nothing, once its address is known. -/
theorem operand_of_ne_inc (hg : ∀ r, g ≠ .inc r) (h : effectiveAddress g s = .ok (a, t)) (side : LongDistance) (size : Size)
    (v : Word) (c : Byte) :
    operandAddress side size g s = .ok (⟨operandMap s side g, a⟩, t) ∧
    (HoldsWord t.turn (operandMap s side g) a v →
      operandWord side g s = .ok ((⟨operandMap s side g, a⟩, v), t.turn)) ∧
    (HoldsByte t.turn (operandMap s side g) a c →
      operandByte side g s = .ok ((⟨operandMap s side g, a⟩, c), t.turn)) := by
  have hl : locate side g s = .ok (⟨operandMap s side g, a⟩, t) := locate_eq_ok_iff.mpr ⟨h, rfl⟩
  refine ⟨?_, fun hv => ?_, fun hc => ?_⟩
  · exact operandAddress_eq_ok_iff.mpr ⟨t, hl, autoincrement_of_ne_inc hg size a t⟩
  · exact operandWord_eq_ok_iff.mpr ⟨t, t.turn, hl, hv.read, autoincrement_of_ne_inc hg .word a t.turn⟩
  · exact operandByte_eq_ok_iff.mpr ⟨t, t.turn, hl, hc.read, autoincrement_of_ne_inc hg .byte a t.turn⟩

/-- An operand that has no address stops as its address does. -/
theorem operand_of_error {e : Stop} (h : effectiveAddress g s = .error e) (side : LongDistance) (size : Size) :
    operandWord side g s = .error e ∧ operandByte side g s = .error e ∧ operandAddress side size g s = .error e := by
  have hl : locate side g s = .error e := Op.bind_error h
  exact ⟨Op.bind_error hl, Op.bind_error hl, Op.bind_error hl⟩

/-! ## What the evaluation of an operand can change (40_addressing.md R121) -/

/-- Reads, then the autoincrement, stay within an operand's frame. -/
theorem operandFrame_of_autoincrement (hread : ReadFrame s t)
    (hpc : t.pc = if g.extWords = 0 then s.pc else evenAddress (s.pc + 2))
    (h : autoincrement g size a t = .ok ((), u)) : OperandFrame g s u := by
  obtain ⟨-, rfl⟩ | ⟨r, k, p, rfl, hp, rfl⟩ := autoincrement_eq_ok h
  · exact { hread with pc := hpc, memory := fun q _ hq => hread.mem q hq }
  · rw [hread.registerPlace] at hp
    exact {
      plat := by simp [hread.plat], map0 := by simp [hread.map0], map1 := by simp [hread.map1], map2 := by simp [hread.map2]
      irq := by simp [hread.irq], clk := by simp [hread.clk], err := by simp [hread.err], idle := by simp [hread.idle]
      clken := by simp [hread.clken], irqEnv := by simp [hread.irqEnv], wp := by simp [hread.wp], st := by simp [hread.st]
      ld := by simp [hread.ld], pc := by simp [hpc]
      dmaEnv := by rw [storedWord_dmaEnv]; exact (List.tail_suffix _).trans hread.dmaEnv
      memory := fun q h hq =>
        have ⟨hne, hne'⟩ := h r k p rfl hp
        (storedWord_byte_ne hne hne' (hq.suffix hread.dmaEnv)).trans (hread.mem q hq) }

theorem locate_frame (h : locate side g s = .ok (l, t)) :
    ReadFrame s t ∧ t.pc = if g.extWords = 0 then s.pc else evenAddress (s.pc + 2) :=
  effectiveAddress_frame (locate_eq_ok_iff.mp h).1

theorem operandAddress_frame (h : operandAddress side size g s = .ok (l, u)) : OperandFrame g s u := by
  obtain ⟨t, hl, hi⟩ := operandAddress_eq_ok_iff.mp h
  obtain ⟨hframe, hpc⟩ := locate_frame hl
  exact operandFrame_of_autoincrement hframe hpc hi

theorem operandWord_frame (h : operandWord side g s = .ok ((l, v), u)) : OperandFrame g s u := by
  obtain ⟨t, t', hl, hread, hi⟩ := operandWord_eq_ok_iff.mp h
  obtain ⟨hframe, hpc⟩ := locate_frame hl
  obtain ⟨hframe', hpc'⟩ := readWord_frame hread
  exact operandFrame_of_autoincrement (hframe.trans hframe') (hpc'.trans hpc) hi

theorem operandByte_frame (h : operandByte side g s = .ok ((l, c), u)) : OperandFrame g s u := by
  obtain ⟨t, t', hl, hread, hi⟩ := operandByte_eq_ok_iff.mp h
  obtain ⟨hframe, hpc⟩ := locate_frame hl
  obtain ⟨hframe', hpc'⟩ := readByte_frame hread
  exact operandFrame_of_autoincrement (hframe.trans hframe') (hpc'.trans hpc) hi

end

/-- Settles O18: an operand's address, then its read if there is one, leave a read frame, and the autoincrement stores one word. -/
theorem operandEvaluationFrame : Obligations.OperandEvaluationFrame :=
  fun _ _ _ _ _ _ _ _ => ⟨operandWord_frame, operandByte_frame, operandAddress_frame⟩

/-- Settles O16: the address of each mode, from which the operand follows alike in all four. -/
theorem operandModes : Obligations.OperandModes := by
  intro s side size r a b v c
  refine ⟨?reg, fun ha => ?ind, fun hb => ?sym, fun hb ha => ?idx⟩
  case reg => exact operand_of_ne_inc (g := .reg r) nofun rfl side size v c
  case ind => exact operand_of_ne_inc (g := .ind r) nofun (readReg_ok ha) side size v c
  case sym => simpa using operand_of_ne_inc (g := .sym) nofun hb.fetch side size v c
  case idx => simpa using operand_of_ne_inc (g := .idx r) nofun (effectiveAddress_idx hb ha) side size v c

/-- Mode 3 when the register does not address itself: the operand it addresses, then a store to the register. -/
theorem operand_inc {s : State} {r : Reg} {a : Word} {k : Config.RegionKind} {p : Nat}
    (ha : HoldsWord s.turn (currentMap s) (regAddress s r) a) (hself : evenAddress a ≠ evenAddress (regAddress s r))
    (hp : place s (currentMap s) (evenAddress (regAddress s r)) = .ok (k, p)) (side : LongDistance) :
    (∀ v, HoldsWord s.turn.turn (operandMap s side (.inc r)) a v →
      operandWord side (.inc r) s = .ok ((⟨operandMap s side (.inc r), a⟩, v), storedWord k p (a + 2) s.turn.turn)) ∧
    (∀ c, HoldsByte s.turn.turn (operandMap s side (.inc r)) a c →
      operandByte side (.inc r) s = .ok ((⟨operandMap s side (.inc r), a⟩, c), storedWord k p (a + 1) s.turn.turn)) ∧
    ∀ size, operandAddress side size (.inc r) s =
      .ok (⟨operandMap s side (.inc r), a⟩, storedWord k p (a + size.bytes) s.turn) := by
  have hea : effectiveAddress (.inc r) s = .ok (a, s.turn) := (effectiveAddress_inc (readReg_ok ha)).trans (if_neg hself)
  have hl : locate side (.inc r) s = .ok (⟨operandMap s side (.inc r), a⟩, s.turn) := locate_eq_ok_iff.mpr ⟨hea, rfl⟩
  have hturn := ReadFrame.turn s
  have hturns := hturn.trans (.turn s.turn)
  refine ⟨fun v hv => ?_, fun c hc => ?_, fun size => ?_⟩
  · exact operandWord_eq_ok_iff.mpr ⟨s.turn, s.turn.turn, hl, hv.read, autoincrement_inc hturns hp .word a⟩
  · exact operandByte_eq_ok_iff.mpr ⟨s.turn, s.turn.turn, hl, hc.read, autoincrement_inc hturns hp .byte a⟩
  · exact operandAddress_eq_ok_iff.mpr ⟨s.turn, hl, autoincrement_inc hturn hp size a⟩

/-- Settles O17: the operand of mode 3, at the two sizes. -/
theorem Operand.autoincrement : Obligations.Autoincrement := by
  intro s side r a v c k p ha hself hp
  obtain ⟨hword, hbyte, haddress⟩ := operand_inc ha hself hp side
  exact ⟨hword v, hbyte c, haddress .word, haddress .byte⟩

/-! ## The instruction a step runs (40_addressing.md R120) -/

/-- Settles O8: neither branch of the boundary is taken, and the word at PC is fetched and decoded. -/
theorem stepRunsDecoded : Obligations.StepRunsDecoded := by
  intro s w i hpending hidle hword hdecode
  refine ⟨(encode_of_decodeWord hdecode).1, ?_, sampleInputs_eq s⟩
  have hpc : (sampleInputs s).pc = s.pc := by
    obtain ⟨irq, clk, env, h⟩ := sampleInputs_eq s
    rw [h]
    rfl
  rw [← hpc] at hword ⊢
  simp [step, cycle, fetchAndExecute, hpending, hidle, hword.fetch, hdecode]

/-! ## The forms the spec refuses (40_addressing.md R126, 42_branch.md R183, 30_encoding.md R108) -/

theorem completeLatching_refused {body : Op LongDistance} {s : State} {r : Refusal} (h : body s = .error (.refusal r)) :
    completeLatching body s = .refused r := by
  unfold completeLatching
  rw [h]

theorem complete_refused {body : Op Unit} {s : State} {r : Refusal} (h : body s = .error (.refusal r)) :
    complete body s = .refused r :=
  completeLatching_refused (Op.bind_error h)

/-- Without the map option its instructions are undefined op codes (30_encoding.md R108). -/
theorem withMapOption_of_not_hasMap {α : Type} {s : State} (h : s.plat.hasMap = false) (body : Op α) :
    withMapOption body s = .error (.refusal .undefinedOpcode) := by
  unfold withMapOption
  rw [if_neg (by simp [h])]

/-- X executes what the word its operand answers decodes to (42_branch.md R183). -/
theorem execX_of_ok {g : GenAddr} {s t : State} {l : Loc} {ir : Word} {i : Instr}
    (h : operandWord .src g s = .ok ((l, ir), t)) (hdecode : decodeWord ir = .ok i) :
    exec (.x g) s = execSubstituted i (t.setLd .none) := by
  change execX g s = _
  simp only [execX, h, hdecode]

/-- X of a word that decodes to nothing is an undefined op code (30_encoding.md R108). -/
theorem execX_of_error {g : GenAddr} {s t : State} {l : Loc} {ir : Word} {e : DecodeError}
    (h : operandWord .src g s = .ok ((l, ir), t)) (hdecode : decodeWord ir = .error e) :
    exec (.x g) s = .refused .undefinedOpcode := by
  change execX g s = _
  simp only [execX, h, hdecode]

/-- Settles O19: each form stops where its refusal is raised. -/
theorem refusedForms : Obligations.RefusedForms := by
  refine ⟨?selfReference, ?nestedExecute, ?undefinedOpcode, ?noMap, ?hardwareXop⟩
  case selfReference =>
    intro s s1 side size r a hread hself
    exact operand_of_error ((effectiveAddress_inc hread).trans (if_pos hself)) side size
  case nestedExecute =>
    intro s s1 g g' l ir hoperand hdecode
    exact execX_of_ok hoperand hdecode
  case undefinedOpcode =>
    intro s s1 g l ir e hoperand hdecode
    exact execX_of_error hoperand hdecode
  case noMap =>
    intro s m w g hmap
    exact ⟨complete_refused (withMapOption_of_not_hasMap hmap _), completeLatching_refused (withMapOption_of_not_hasMap hmap _),
      completeLatching_refused (withMapOption_of_not_hasMap hmap _)⟩
  case hardwareXop =>
    intro s s1 g n l hoperand hhardware hsupplied
    have hplat : s1.plat = s.plat := (operandAddress_frame hoperand).plat
    refine complete_refused ?_
    rw [Op.bind_ok hoperand, Op.get_bind, hplat, if_pos hhardware, if_neg (by simp [hsupplied])]
    rfl

end Sys2Proof.Machine

/-! PROOFS of 41_arithmetic.md: the thirteen arithmetic instructions (O20, O21, O22, O29, O32 to O36). First what each computed
result is and writes to ST, as numbers; then what a shape of instruction that stores such a result does; then the two
instructions on register pairs. -/

namespace Sys2Proof.Machine

/-! ## Computed results (40_addressing.md R131 to R136) -/

/-- The result is `v`, and its status change writes exactly the listed fields, to any status word. -/
structure Computed.Gives {w : Nat} (r : Computed w) (v : BitVec w) (fields : List (Flag × Bool)) : Prop where
  value  : r.value = v
  status : ∀ st, StatusWritten st (r.status st) fields

theorem add_gives {w : Nat} (a b : BitVec (w + 1)) :
    (Computed.arithmetic (add a b)).Gives (a + b) (zeroFields (a + b) ++
      [(.c, decide (2 ^ (w + 1) ≤ a.toNat + b.toNat)), overflowField (w + 1) (a.toInt + b.toInt)]) where
  value := add_value a b
  status st := by
    rw [← add_value, ← add_carry, ← add_overflow]
    exact arithmetic_written (add a b) st

theorem sub_gives {w : Nat} (d s : BitVec (w + 1)) :
    (Computed.arithmetic (sub d s)).Gives (d - s) (zeroFields (d - s) ++
      [(.c, decide (s.toNat ≤ d.toNat)), overflowField (w + 1) (d.toInt - s.toInt)]) where
  value := sub_value d s
  status st := by
    rw [← sub_value, ← sub_carry, ← sub_overflow]
    exact arithmetic_written (sub d s) st

theorem addByte_gives (a b : Byte) :
    (Computed.arithmeticByte (add a b)).Gives (a + b) (zeroFields (a + b) ++
      [(.c, decide (2 ^ 8 ≤ a.toNat + b.toNat)), overflowField 8 (a.toInt + b.toInt), parityField (a + b)]) where
  value := add_value a b
  status st := by
    rw [← add_value, ← add_carry, ← add_overflow (w := 7)]
    exact arithmeticByte_written (add a b) st

theorem subByte_gives (d s : Byte) :
    (Computed.arithmeticByte (sub d s)).Gives (d - s) (zeroFields (d - s) ++
      [(.c, decide (s.toNat ≤ d.toNat)), overflowField 8 (d.toInt - s.toInt), parityField (d - s)]) where
  value := sub_value d s
  status st := by
    rw [← sub_value, ← sub_carry, ← sub_overflow (w := 7)]
    exact arithmeticByte_written (sub d s) st

/-! ### Negation and absolute value (41_arithmetic.md R151, R152) -/

/-- 8000 is the one word whose negation does not fit. -/
theorem beq_minWord_eq (a : Word) : (a == 0x8000) = decide (a.toInt = -32768) := by
  rw [Bool.eq_iff_iff, beq_iff_eq, decide_eq_true_eq, ← BitVec.toInt_inj]
  rfl

/-- OV of NEG. -/
theorem negate_overflow (a : Word) : (Flag.ov, a == 0x8000) = overflowField 16 (-a.toInt) := by
  have hlow := BitVec.le_toInt a
  have hhigh := BitVec.toInt_lt (x := a)
  simp only [overflowField, beq_minWord_eq, Prod.mk.injEq, true_and, decide_eq_decide]
  omega

/-- OV of ABS. -/
theorem absolute_overflow (a : Word) : (Flag.ov, a == 0x8000) = overflowField 16 |a.toInt| := by
  have habs : |a.toInt| = max a.toInt (-a.toInt) := abs_eq_max_neg
  have hlow := BitVec.le_toInt a
  have hhigh := BitVec.toInt_lt (x := a)
  simp only [overflowField, beq_minWord_eq, Prod.mk.injEq, true_and, decide_eq_decide]
  omega

/-- A comparison to zero, then OV: the status of NEG, and of ABS but for C. -/
theorem compareToZero_overflow_written (r : Word) (b : Bool) (st : Word) :
    StatusWritten st (setFlag .ov b (compareToZero r st)) (zeroFields r ++ [(.ov, b)]) :=
  ((compareToZero_written r st).cons .ov b (by simp [zeroFields])).perm (by simp [or_comm])

/-- NEG's result: C is not among its fields. -/
theorem negate_gives (a : Word) :
    (Computed.mk (-a) fun st => setFlag .ov (a == 0x8000) (compareToZero (-a) st)).Gives (-a)
      (zeroFields (-a) ++ [overflowField 16 (-a.toInt)]) where
  value := rfl
  status st := negate_overflow a ▸ compareToZero_overflow_written (-a) _ st

/-- ABS's result, whatever its carry: the fields of the comparison are those of the operand. -/
theorem absolute_gives (a : Word) (c : Bool) :
    (Computed.mk (if a.msb then -a else a) fun st =>
      setFlag .c c (setFlag .ov (a == 0x8000) (compareToZero a st))).Gives (if a.toInt < 0 then -a else a)
      (zeroFields a ++ [overflowField 16 |a.toInt|, (.c, c)]) where
  value := by simp only [BitVec.msb_eq_toInt, decide_eq_true_eq]
  status st := by
    rw [← absolute_overflow]
    refine ((compareToZero_overflow_written a _ st).cons .c c (by simp [zeroFields])).perm fun x => ?_
    simp only [List.mem_append, List.mem_cons, List.not_mem_nil, or_false]
    tauto

/-! ## The shapes of instructions that store a result (40_addressing.md R120, R128) -/

section

variable {i : Instr} {s s1 s2 u : State} {g gs gd : GenAddr} {l sl dl : Loc} {fields : List (Flag × Bool)}

/-- An instruction whose body stores a computed result at a location and then writes its status. -/
theorem storesWord_of_body {body : Op Unit} {r : Computed 16} {v : Word} (hexec : exec i s = complete body s)
    (hbody : ∀ k p, place u l.file (evenAddress l.addr) = .ok (k, p) →
      body s = .ok ((), (storedWord k p r.value u).setSt (r.status u.st)))
    (hr : r.Gives v fields) : StoresWord i s u l v fields := by
  obtain ⟨rfl, hstatus⟩ := hr
  intro k p hp
  exact ⟨_, hexec.trans (complete_ok (hbody k p hp)), wordStored_status (storedWord_stored k p r.value u) _,
    sameContext_stored k p r.value _ u, storedWord_pc k p r.value u, hstatus u.st⟩

theorem storesByte_of_body {body : Op Unit} {r : Computed 8} {v : Byte} (hexec : exec i s = complete body s)
    (hbody : ∀ k p, place u l.file l.addr = .ok (k, p) →
      body s = .ok ((), (storedByte k p r.value u).setSt (r.status u.st)))
    (hr : r.Gives v fields) : StoresByte i s u l v fields := by
  obtain ⟨rfl, hstatus⟩ := hr
  intro k p hp
  exact ⟨_, hexec.trans (complete_ok (hbody k p hp)), byteStored_status (storedByte_stored k p r.value u) _,
    sameContext_storedByte k p r.value _ u, storedByte_pc k p r.value u, hstatus u.st⟩

theorem storesWord_of_binaryWord {k : Word → Word → Computed 16} {src dst v : Word}
    (hexec : exec i s = complete (binaryWord gs gd k) s) (hsrc : operandWord .src gs s = .ok ((sl, src), s1))
    (hdst : operandWord .dst gd s1 = .ok ((dl, dst), s2)) (hr : (k src dst).Gives v fields) :
    StoresWord i s s2 dl v fields :=
  storesWord_of_body hexec (fun _ _ hp => binaryWord_ok hsrc hdst hp k) hr

theorem storesByte_of_binaryByte {k : Byte → Byte → Computed 8} {src dst v : Byte}
    (hexec : exec i s = complete (binaryByte gs gd k) s) (hsrc : operandByte .src gs s = .ok ((sl, src), s1))
    (hdst : operandByte .dst gd s1 = .ok ((dl, dst), s2)) (hr : (k src dst).Gives v fields) :
    StoresByte i s s2 dl v fields :=
  storesByte_of_body hexec (fun _ _ hp => binaryByte_ok hsrc hdst hp k) hr

theorem storesWord_of_modifyWord {k : Word → Computed 16} {a v : Word} (hexec : exec i s = complete (modifyWord g k) s)
    (ha : operandWord .src g s = .ok ((l, a), s1)) (hr : (k a).Gives v fields) : StoresWord i s s1 l v fields :=
  storesWord_of_body hexec (fun _ _ hp => modifyWord_ok ha hp k) hr

theorem storesWord_of_immediateResult {w : Reg} {k : Word → Word → Computed 16} {iop a v : Word}
    (hexec : exec i s = complete (immediateResult w k) s) (hiop : fetch s = .ok (iop, s1))
    (ha : readReg w s1 = .ok (a, s2)) (hr : (k a iop).Gives v fields) :
    StoresWord i s s2 ⟨currentMap s2, regAddress s2 w⟩ v fields :=
  storesWord_of_body hexec (fun _ _ hp => immediateResult_ok hiop ha hp k) hr

end

/-- Settles O20. -/
theorem addWords : Obligations.AddWords :=
  fun _ _ _ _ _ _ _ src dst hsrc hdst => storesWord_of_binaryWord rfl hsrc hdst (add_gives (w := 15) src dst)

/-- Settles O21. -/
theorem addBytes : Obligations.AddBytes :=
  fun _ _ _ _ _ _ _ src dst hsrc hdst => storesByte_of_binaryByte rfl hsrc hdst (addByte_gives src dst)

/-- Settles O22: the destination is the minuend. -/
theorem subtractOperands : Obligations.SubtractOperands :=
  ⟨fun _ _ _ _ _ _ _ src dst hsrc hdst => storesWord_of_binaryWord rfl hsrc hdst (sub_gives (w := 15) dst src),
    fun _ _ _ _ _ _ _ src dst hsrc hdst => storesByte_of_binaryByte rfl hsrc hdst (subByte_gives dst src)⟩

/-- Settles O29: the register is the first summand. -/
theorem addImmediate : Obligations.AddImmediate :=
  fun _ _ _ _ iop a hiop ha => storesWord_of_immediateResult rfl hiop ha (add_gives (w := 15) a iop)

/-- Settles O34: the sums with 1 and with 2. -/
theorem increment : Obligations.Increment := fun _ _ _ _ a ha =>
  ⟨storesWord_of_modifyWord rfl ha (add_gives (w := 15) a 1), storesWord_of_modifyWord rfl ha (add_gives (w := 15) a 2)⟩

/-- Settles O35: the differences with 1 and with 2. -/
theorem decrement : Obligations.Decrement := fun _ _ _ _ a ha =>
  ⟨storesWord_of_modifyWord rfl ha (sub_gives (w := 15) a 1), storesWord_of_modifyWord rfl ha (sub_gives (w := 15) a 2)⟩

/-- Settles O36: the carry of ABS is the installation's, whatever it is (log 8). -/
theorem negateAndAbsolute : Obligations.NegateAndAbsolute := fun _ _ _ _ a ha =>
  ⟨storesWord_of_modifyWord rfl ha (negate_gives a),
    storesWord_of_modifyWord rfl ha (absolute_gives a (Config.absCarry a))⟩

/-! ## Register pairs (41_arithmetic.md R145, R146) -/

section

variable {s : State} {k k' : Config.RegionKind} {p p' : Nat} {a v v' : Word}

/-- A second store, to a place known before the first. -/
theorem store_storedWord (h : place s (currentMap s) (evenAddress a) = .ok (k', p')) :
    store a v' (storedWord k p v s) = .ok ((), storedWord k' p' v' (storedWord k p v s)) :=
  store_ok (currentMap_storedWord k p v s) ((place_storedWord k p v s _ _).trans h)

/-- Two stores leave the other bytes that the environment does not write. -/
theorem storedWord_storedWord_byte_ne {q : Nat} (h1 : q ≠ p) (h2 : q ≠ p + 1) (h3 : q ≠ p') (h4 : q ≠ p' + 1)
    (hq : s.Quiet q) : (storedWord k' p' v' (storedWord k p v s)).mem.byte q = s.mem.byte q :=
  (storedWord_byte_ne h3 h4 (hq.storedWord k p v)).trans (storedWord_byte_ne h1 h2 hq)

end

/-- The halves of a 32-bit number, in numbers. -/
theorem toNat_halves (x : BitVec 32) : 65536 * (x.extractLsb' 16 16).toNat + (x.extractLsb' 0 16).toNat = x.toNat := by
  have hx := x.isLt
  simp only [BitVec.extractLsb'_toNat, Nat.shiftRight_eq_div_pow]
  omega

/-- A product of two words fits in 32 bits. -/
theorem toNat_product (a b : Word) : (a.setWidth 32 * b.setWidth 32).toNat = a.toNat * b.toNat := by
  have ha := a.isLt
  have hb := b.isLt
  have hab : a.toNat * b.toNat < 2 ^ 16 * 2 ^ 16 := Nat.mul_lt_mul'' ha hb
  rw [BitVec.toNat_mul, BitVec.toNat_setWidth, BitVec.toNat_setWidth, Nat.mod_eq_of_lt (a := a.toNat) (by omega),
    Nat.mod_eq_of_lt (a := b.toNat) (by omega), Nat.mod_eq_of_lt (by omega)]

/-- Two words as one 32-bit number, in numbers. -/
theorem toNat_pair (hi lo : Word) : (hi ++ lo : BitVec 32).toNat = 65536 * hi.toNat + lo.toNat := by
  rw [BitVec.toNat_append, ← Nat.shiftLeft_add_eq_or_of_lt lo.isLt, Nat.shiftLeft_eq]
  omega

/-- A divisor larger than the most significant half of the dividend has a quotient of 16 bits (41_arithmetic.md R146). -/
theorem quotient_remainder {hi lo dv : Word} (h : hi.toNat < dv.toNat) :
    65536 * hi.toNat + lo.toNat =
      (((hi ++ lo : BitVec 32) / dv.setWidth 32).setWidth 16).toNat * dv.toNat +
        (((hi ++ lo : BitVec 32) % dv.setWidth 32).setWidth 16).toNat ∧
    (((hi ++ lo : BitVec 32) % dv.setWidth 32).setWidth 16).toNat < dv.toNat := by
  have hdv := dv.isLt
  have hlo := lo.isLt
  have hmod := Nat.mod_lt (65536 * hi.toNat + lo.toNat) (by omega : 0 < dv.toNat)
  have hdiv : (65536 * hi.toNat + lo.toNat) / dv.toNat < 2 ^ 16 := by
    rw [Nat.div_lt_iff_lt_mul (by omega)]
    omega
  simp only [BitVec.toNat_setWidth, BitVec.toNat_udiv, BitVec.toNat_umod, toNat_pair]
  rw [Nat.mod_eq_of_lt (a := dv.toNat) (by omega), Nat.mod_eq_of_lt hdiv, Nat.mod_eq_of_lt (hmod.trans hdv)]
  exact ⟨(Nat.div_add_mod' _ _).symm, hmod⟩

section

variable {g : GenAddr} {d : Reg} {s s1 s2 s3 : State} {sl : Loc} {src x dv hi lo : Word} {k k' : Config.RegionKind} {p p' : Nat}

/-- MPY stores the halves of the product at its two places, one after the other. -/
theorem exec_mpy (hsrc : operandWord .src g s = .ok ((sl, src), s1)) (hx : readReg d s1 = .ok (x, s2))
    (hp : place s2 (currentMap s2) (evenAddress (regAddress s2 d)) = .ok (k, p))
    (hp' : place s2 (currentMap s2) (evenAddress (regAddress s2 d + 2)) = .ok (k', p')) :
    exec (.mpy g d) s = .next ((storedWord k' p' ((src.setWidth 32 * x.setWidth 32).extractLsb' 0 16)
      (storedWord k p ((src.setWidth 32 * x.setWidth 32).extractLsb' 16 16) s2)).setLd .none) := by
  refine complete_ok ?_
  rw [Op.bind_ok hsrc]
  dsimp only
  rw [Op.bind_ok hx, Op.get_bind, Op.bind_ok (store_ok rfl hp), store_storedWord hp']

/-- DIV with a divisor not larger than the dividend's most significant half (decision D8). -/
theorem exec_div_of_le (hdv : operandWord .src g s = .ok ((sl, dv), s1)) (hhi : readReg d s1 = .ok (hi, s2)) (h : dv ≤ hi) :
    exec (.div g d) s = .next ((s2.setSt (setFlag .ov true s2.st)).setLd .none) := by
  refine complete_ok ?_
  rw [Op.bind_ok hdv]
  dsimp only
  rw [Op.get_bind, Op.bind_ok (show load (regAddress s1 d) s1 = .ok (hi, s2) from hhi), if_pos h]
  rfl

/-- DIV with a larger divisor: the dividend's other half is read, then quotient and remainder are stored, then OV is cleared. -/
theorem exec_div_of_not_le (hdv : operandWord .src g s = .ok ((sl, dv), s1)) (hhi : readReg d s1 = .ok (hi, s2)) (h : ¬ dv ≤ hi)
    (hlo : load (regAddress s2 d + 2) s2 = .ok (lo, s3))
    (hp : place s3 (currentMap s3) (evenAddress (regAddress s3 d)) = .ok (k, p))
    (hp' : place s3 (currentMap s3) (evenAddress (regAddress s3 d + 2)) = .ok (k', p')) :
    exec (.div g d) s = .next (((storedWord k' p' (((hi ++ lo : BitVec 32) % dv.setWidth 32).setWidth 16)
      (storedWord k p (((hi ++ lo : BitVec 32) / dv.setWidth 32).setWidth 16) s3)).setSt (setFlag .ov false s3.st)).setLd
      .none) := by
  have hframe : ReadFrame s2 s3 := (readWord_frame (f := currentMap s2) hlo).1
  rw [hframe.regAddress, (readReg_frame hhi).1.regAddress] at hp hp'
  rw [(readReg_frame hhi).1.regAddress] at hlo
  refine complete_ok ?_
  rw [Op.bind_ok hdv]
  dsimp only
  rw [Op.get_bind, Op.bind_ok (show load (regAddress s1 d) s1 = .ok (hi, s2) from hhi), if_neg h, Op.bind_ok hlo,
    Op.bind_ok (store_ok rfl hp), Op.bind_ok (store_storedWord hp')]
  simp

end

/-- The status of DIV: OV alone. -/
theorem overflow_written (b : Bool) (st : Word) : StatusWritten st (setFlag .ov b st) [(.ov, b)] :=
  (StatusWritten.none st).cons .ov b (by simp)

/-- Settles O32: the witnesses are the halves of the 32-bit product. -/
theorem multiply : Obligations.Multiply := by
  intro g d s s1 s2 sl src x k k' p p' hsrc hx hp hp'
  exact ⟨_, _, (toNat_halves _).trans (toNat_product src x), exec_mpy hsrc hx hp hp',
    fun _ h1 h2 h3 h4 hq => storedWord_storedWord_byte_ne h1 h2 h3 h4 hq⟩

/-- Settles O33: the divisor against the dividend's most significant half decides which of the two ways DIV goes. -/
theorem divide : Obligations.Divide := by
  intro g d s s1 s2 sl dv hi hdv hhi
  refine ⟨fun hle => ?overflow, fun s3 lo k k' p p' hlt hlo hp hp' => ?quotient⟩
  case overflow => exact ⟨_, exec_div_of_le hdv hhi (BitVec.le_def.mpr hle), rfl, overflow_written true s2.st⟩
  case quotient =>
    obtain ⟨hsum, hrem⟩ := quotient_remainder (lo := lo) hlt
    exact ⟨_, _, _, hsum, hrem, exec_div_of_not_le hdv hhi (BitVec.not_le.mpr hlt) hlo hp hp', rfl,
      overflow_written false s3.st, fun _ h1 h2 h3 h4 hq => storedWord_storedWord_byte_ne h1 h2 h3 h4 hq⟩

end Sys2Proof.Machine

/-! PROOFS of 42_branch.md: the branches (O39), the context switch and the return (O40, O41), the jumps (O42, O43) and X (O44).
What each body does is a lemma of its own; the thirteen jumps are one lemma over their condition. -/

namespace Sys2Proof.Machine

/-! ## Branches through a general address (42_branch.md R160 to R162) -/

section

variable {g : GenAddr} {s s1 s2 s3 : State} {l : Loc} {k : Config.RegionKind} {p : Nat}

theorem exec_b (h : operandAddress .src .word g s = .ok (l, s1)) :
    exec (.b g) s = .next ((s1.setPc (evenAddress l.addr)).setLd .none) := by
  refine complete_ok ?_
  rw [Op.bind_ok h]
  rfl

/-- The link is the PC past the whole instruction, stored in R11 once the target is formed. -/
theorem exec_bl (h : operandAddress .src .word g s = .ok (l, s1))
    (hp : place s1 (currentMap s1) (evenAddress (regAddress s1 11)) = .ok (k, p)) :
    exec (.bl g) s = .next (((storedWord k p s1.pc s1).setPc (evenAddress l.addr)).setLd .none) := by
  refine complete_ok ?_
  rw [Op.bind_ok h, Op.get_bind, Op.bind_ok (writeReg_ok hp s1.pc)]
  rfl

/-- BLWP is a context switch through the vector at its operand, which saves WP, PC and ST as the operand left them. -/
theorem exec_blwp {newWp newPc : Word} (h : operandAddress .src .word g s = .ok (l, s1))
    (hwp : readWord (currentMap s1) l.addr s1 = .ok (newWp, s2))
    (hpc : readWord (currentMap s1) (l.addr + 2) s2 = .ok (newPc, s3)) (x : SavePlaces s3 (currentMap s1) newWp) :
    exec (.blwp g) s =
      .next ((((x.saved s1.wp s1.pc s1.st s3).setWp newWp).setPc (evenAddress newPc)).setLd .none) := by
  refine complete_ok ?_
  rw [Op.bind_ok h, Op.get_bind]
  exact contextSwitch_ok rfl hwp hpc x

end

/-- Settles O39: R11 is at WP + 22, and its store is what BL does beyond B. -/
theorem branchAndLink : Obligations.BranchAndLink := fun _ _ s1 _ h =>
  ⟨exec_b h, fun k p hp => ⟨exec_bl h hp, storedWord_stored k p s1.pc s1⟩⟩

/-- Settles O40: the two reads of the vector write nothing, and the saves write their six bytes. -/
theorem branchAndLoadWorkspace : Obligations.BranchAndLoadWorkspace := by
  intro g s s1 s2 s3 l newWp newPc x h hwp hpc
  have hreads : ReadFrame s1 s3 := (readWord_frame hwp).1.trans (readWord_frame hpc).1
  exact ⟨exec_blwp h hwp hpc x, fun q hout hquiet =>
    (x.saved_byte _ _ _ s3 hout (hquiet.suffix hreads.dmaEnv)).trans (hreads.mem q hquiet)⟩

/-! ## The return (42_branch.md R164) -/

/-- The status word a return leaves: the word under ST_MASK, or TI bits 0 to 6 of it in non-privileged state. -/
def returnedStatus (s : State) (w : Word) : Word :=
  if unprivileged s then (s.st &&& 0x01FF) ||| (w &&& 0xFE00) else w &&& s.plat.stMask

theorem returnedStatus_of_privileged {s : State} (h : unprivileged s = false) (w : Word) :
    returnedStatus s w = w &&& s.plat.stMask := by
  simp [returnedStatus, h]

/-- TI bits 0 to 6 are the bits 9 to 15. -/
theorem returnedStatus_getLsbD_of_unprivileged {s : State} (h : unprivileged s = true) (w : Word) {i : Nat} (hi : i < 16) :
    (returnedStatus s w).getLsbD i = if 9 ≤ i then w.getLsbD i else s.st.getLsbD i := by
  have low : ∀ j : Fin 16, (0x01FF : Word).getLsbD j.val = decide (j.val < 9) := by decide
  have high : ∀ j : Fin 16, (0xFE00 : Word).getLsbD j.val = decide (9 ≤ j.val) := by decide
  rw [returnedStatus, if_pos h, BitVec.getLsbD_or, BitVec.getLsbD_and, BitVec.getLsbD_and, low ⟨i, hi⟩, high ⟨i, hi⟩]
  by_cases h9 : 9 ≤ i
  · simp [h9]
  · simp [h9, Nat.lt_of_not_le h9]

/-- The return's transfer, once its three registers are read. -/
theorem restoreContext_ok {s s1 s2 s3 : State} {w13 w14 w15 : Word} (h13 : readReg 13 s = .ok (w13, s1))
    (h14 : readReg 14 s1 = .ok (w14, s2)) (h15 : readReg 15 s2 = .ok (w15, s3)) :
    restoreContext s = .ok ((), ((s3.setSt (returnedStatus s3 w15)).setWp w13).jump w14) := by
  unfold restoreContext
  rw [Op.bind_ok h13, Op.bind_ok h14, Op.bind_ok h15]
  rfl

theorem ReadFrame.unprivileged {s t : State} (h : ReadFrame s t) : unprivileged t = unprivileged s := by
  unfold Machine.unprivileged
  rw [h.plat, h.st]

/-- Settles O41: reading the registers changes neither the platform nor ST, so the state at the start decides. -/
theorem returnWithWorkspace : Obligations.ReturnWithWorkspace := by
  intro s s1 s2 s3 w13 w14 w15 h13 h14 h15
  have hreads : ReadFrame s s3 := (readReg_frame h13).1.trans ((readReg_frame h14).1.trans (readReg_frame h15).1)
  refine ⟨_, complete_ok (restoreContext_ok h13 h14 h15), rfl, fun hpriv => ?privileged, fun hunpriv i hi => ?restricted⟩
  case privileged =>
    rw [← hreads.plat]
    exact returnedStatus_of_privileged (hreads.unprivileged.trans hpriv) w15
  case restricted => exact returnedStatus_getLsbD_of_unprivileged (hreads.unprivileged.trans hunpriv) w15 hi

/-! ## Jumps (42_branch.md R165 to R178) -/

/-- A displacement keeps PC even. -/
theorem evenAddress_add_displacement {pc : Word} (h : pc.getLsbD 0 = false) (x : Word) :
    evenAddress (pc + 2 * x) = pc + 2 * x := by
  rw [BitVec.getLsbD, Nat.testBit_zero, decide_eq_false_iff_not] at h
  apply BitVec.eq_of_toNat_eq
  rw [evenAddress_toNat, BitVec.toNat_add, BitVec.toNat_mul, show (2 : Word).toNat = 2 from rfl]
  omega

/-- PC plus twice the displacement, in numbers. -/
theorem toNat_add_displacement (pc : Word) (d : BitVec 8) :
    ((pc + 2 * d.signExtend 16).toNat : Int) = ((pc.toNat : Int) + 2 * d.toInt) % 65536 := by
  have hint : pc + 2 * d.signExtend 16 = BitVec.ofInt 16 ((pc.toNat : Int) + 2 * d.toInt) := by
    rw [BitVec.ofInt_add, BitVec.ofInt_mul, BitVec.ofInt_natCast, BitVec.ofNat_toNat, BitVec.setWidth_eq]
    rfl
  rw [hint, BitVec.toNat_ofInt]
  exact Int.toNat_of_nonneg (Int.emod_nonneg _ (by decide))

/-- An instruction whose body is a conditional jump. -/
theorem jumpsWhen_of_jumpIf {i : Instr} {d : BitVec 8} {taken : State → Prop} (cond : Word → Bool)
    (hexec : ∀ s, exec i s = complete (jumpIf cond d) s) (hcond : ∀ s, taken s ↔ cond s.st = true) :
    JumpsWhen i d taken := by
  intro s heven
  have hanswer := (hexec s).trans (complete_ok (jumpIf_apply cond d s))
  by_cases htaken : taken s
  case pos =>
    rw [if_pos ((hcond s).mp htaken), State.jump, evenAddress_add_displacement heven] at hanswer
    exact ⟨_, hanswer, rfl, fun _ => toNat_add_displacement s.pc d, fun h => absurd htaken h⟩
  case neg =>
    rw [if_neg fun h => htaken ((hcond s).mpr h)] at hanswer
    exact ⟨_, hanswer, rfl, fun h => absurd h htaken, fun _ => rfl⟩

/-- Settles O42: each condition as the model computes it from ST is the rule's. -/
theorem jumpsAfterCompare : Obligations.JumpsAfterCompare := by
  intro d
  refine ⟨?jmp, ?jh, ?jl, ?jhe, ?jle, ?jgt, ?jlt, ?jeq, ?jne⟩
  case jmp => exact jumpsWhen_of_jumpIf (fun _ => true) (fun _ => rfl) (by simp)
  case jh => exact jumpsWhen_of_jumpIf (fun st => flag .lgt st && !flag .eq st) (fun _ => rfl) (by simp)
  case jl => exact jumpsWhen_of_jumpIf (fun st => !flag .lgt st && !flag .eq st) (fun _ => rfl) (by simp)
  case jhe => exact jumpsWhen_of_jumpIf (fun st => flag .lgt st || flag .eq st) (fun _ => rfl) (by simp)
  case jle => exact jumpsWhen_of_jumpIf (fun st => !flag .lgt st || flag .eq st) (fun _ => rfl) (by simp)
  case jgt => exact jumpsWhen_of_jumpIf (flag .agt) (fun _ => rfl) (fun _ => Iff.rfl)
  case jlt => exact jumpsWhen_of_jumpIf (fun st => !flag .agt st && !flag .eq st) (fun _ => rfl) (by simp)
  case jeq => exact jumpsWhen_of_jumpIf (flag .eq) (fun _ => rfl) (fun _ => Iff.rfl)
  case jne => exact jumpsWhen_of_jumpIf (fun st => !flag .eq st) (fun _ => rfl) (by simp)

/-- Settles O43: as O42, over one bit of ST each. -/
theorem jumpsOnBits : Obligations.JumpsOnBits := by
  intro d
  refine ⟨?joc, ?jnc, ?jno, ?jop⟩
  case joc => exact jumpsWhen_of_jumpIf (flag .c) (fun _ => rfl) (fun _ => Iff.rfl)
  case jnc => exact jumpsWhen_of_jumpIf (fun st => !flag .c st) (fun _ => rfl) (by simp)
  case jno => exact jumpsWhen_of_jumpIf (fun st => !flag .ov st) (fun _ => rfl) (by simp)
  case jop => exact jumpsWhen_of_jumpIf (flag .op) (fun _ => rfl) (fun _ => Iff.rfl)

/-! ## X (42_branch.md R183) -/

/-- X executes the instruction at its operand as itself, with the latch `none`. -/
theorem exec_x {g : GenAddr} {s s1 : State} {l : Loc} {ir : Word} {i : Instr}
    (h : operandWord .src g s = .ok ((l, ir), s1)) (hdecode : decodeWord ir = .ok i) (hx : ∀ g', i ≠ .x g') :
    exec (.x g) s = exec i (s1.setLd .none) :=
  (execX_of_ok h hdecode).trans (execSubstituted_eq hx _)

/-- Settles O44: what X substitutes does what it does by itself, JMP and INC of a register too. -/
theorem executeInstruction : Obligations.ExecuteInstruction := by
  intro g s s1 l ir i h hdecode hx
  have hexec := exec_x h hdecode hx
  refine ⟨hexec, fun d hjmp => ?jmp, fun r s2 l2 a k p hinc ha hp => ?inc⟩
  case jmp =>
    subst hjmp
    exact ⟨_, hexec.trans (complete_ok (jumpIf_apply (fun _ => true) d _)), rfl⟩
  case inc =>
    subst hinc
    obtain ⟨hstores, -⟩ := increment (.reg r) (s1.setLd .none) s2 l2 a ha
    obtain ⟨t, hnext, hstored, hcontext, hpc, -⟩ := hstores k p hp
    exact ⟨t, hexec.trans hnext, hstored, hcontext, hpc⟩

end Sys2Proof.Machine

/-! PROOFS of 43_compare.md: the five comparisons (O26, O27, O28). First what each writes to ST, then the instruction
around it. -/

namespace Sys2Proof.Machine

/-! ## What a comparison writes (43_compare.md R191, R193, R194) -/

/-- CB's status: the comparison, then OP. -/
theorem compareOperands_parity_written (src dst : Byte) (st : Word) :
    StatusWritten st (setFlag .op (oddParity src) (compareOperands src dst st))
      [(.lgt, decide (dst.toNat < src.toNat)), (.agt, decide (dst.toInt < src.toInt)), (.eq, decide (src = dst)),
        parityField src] := by
  rw [← oddParity_eq]
  refine ((compareOperands_written src dst st).cons .op _ (by simp)).perm fun y => ?_
  simp only [List.mem_cons, List.not_mem_nil, or_false]
  tauto

theorem setFlag_written (f : Flag) (b : Bool) (st : Word) : StatusWritten st (setFlag f b st) [(f, b)] :=
  (StatusWritten.none st).cons f b (by simp)

/-- A test of two words for equality, bit by bit. -/
theorem beq_eq_decide_bits (a b : Word) : (a == b) = decide (∀ i : Fin 16, a.getLsbD i.val = b.getLsbD i.val) := by
  rw [Bool.eq_iff_iff, beq_iff_eq, decide_eq_true_eq]
  exact ⟨fun h _ => h ▸ rfl, fun h => BitVec.eq_of_getLsbD_eq fun i hi => h ⟨i, hi⟩⟩

/-- COC's test: masking with the register loses no one of the source. -/
theorem and_beq_self_eq_decide (src x : Word) :
    (src &&& x == src) = decide (∀ i : Fin 16, src.getLsbD i.val = true → x.getLsbD i.val = true) := by
  simp only [beq_eq_decide_bits, BitVec.getLsbD_and, Bool.and_eq_left_iff_imp]

/-- CZC's test: masking with the register loses every one of the source. -/
theorem and_beq_zero_eq_decide (src x : Word) :
    (src &&& x == 0) = decide (∀ i : Fin 16, src.getLsbD i.val = true → x.getLsbD i.val = false) := by
  simp only [beq_eq_decide_bits, BitVec.getLsbD_and, BitVec.ofNat_eq_ofNat, BitVec.getLsbD_zero, Bool.and_eq_false_imp]

/-! ## The instructions -/

/-- An instruction that answers with a change of ST alone. -/
theorem writesStatus_of_exec {i : Instr} {s u : State} {f : Word → Word} {fields : List (Flag × Bool)}
    (hf : ∀ st, StatusWritten st (f st) fields) (hexec : exec i s = .next ((u.setSt (f u.st)).setLd .none)) :
    WritesStatus i s u fields :=
  ⟨_, hexec, rfl, hf u.st⟩

/-- CI fetches its immediate before it reads the register. -/
theorem exec_ci {w : Reg} {s s1 s2 : State} {iop a : Word} (hiop : fetch s = .ok (iop, s1))
    (ha : readReg w s1 = .ok (a, s2)) :
    exec (.ci w) s = .next ((s2.setSt (compareOperands a iop s2.st)).setLd .none) := by
  refine complete_ok ?_
  rw [Op.bind_ok hiop, Op.bind_ok ha, setStatus_apply]

/-- Settles O26: C compares the source with the destination, CI the register with the immediate. -/
theorem compareWords : Obligations.CompareWords :=
  ⟨fun _ _ _ _ _ _ _ src dst hsrc hdst =>
      writesStatus_of_exec (compareOperands_written src dst) (complete_ok (inspectWords_ok hsrc hdst _)),
    fun _ _ _ _ iop a hiop ha => writesStatus_of_exec (compareOperands_written a iop) (exec_ci hiop ha)⟩

/-- Settles O27: the comparison, and OP from the source. -/
theorem compareBytes : Obligations.CompareBytes :=
  fun _ _ _ _ _ _ _ src dst hsrc hdst =>
    writesStatus_of_exec (compareOperands_parity_written src dst) (complete_ok (inspectBytes_ok hsrc hdst _))

/-- Settles O28: each test of a masked source is the rule's condition on the bits. -/
theorem compareBits : Obligations.CompareBits := by
  intro g d s s1 s2 sl src x hsrc hx
  rw [← and_beq_self_eq_decide, ← and_beq_zero_eq_decide]
  exact ⟨writesStatus_of_exec (setFlag_written .eq _) (complete_ok (inspectRegister_ok hsrc hx _)),
    writesStatus_of_exec (setFlag_written .eq _) (complete_ok (inspectRegister_ok hsrc hx _))⟩

end Sys2Proof.Machine

/-! PROOFS of 44_control_cru.md: the control instructions (O45), LREX (O46), and the CRU instructions (O49, O50, O51). First the
tests of privilege and what runs of CRU lines do, then what each instruction does. -/

namespace Sys2Proof.Machine

/-! ## Control instructions (44_control_cru.md R200 to R205) -/

/-- On the TMS9900 a control instruction only signals (44_control_cru.md R205). -/
theorem control_of_isTms {s : State} (h : s.plat.isTms = true) (c : Control) (body : Op Unit) :
    control c body s = .ok ((), s.emit (.signal c)) := by
  unfold control
  rw [if_pos h, signal_apply]

/-- On a Model 990 computer a control instruction runs its body where it may. -/
theorem control_of_privileged {s : State} (h : s.plat.isTms = false) (hu : unprivileged s = false) (c : Control)
    (body : Op Unit) : control c body s = body s := by
  unfold control
  rw [if_neg (by simp [h]), whenPrivileged_of_privileged hu]

/-- The TMS9900 has no non-privileged state (00_scope.md R6). -/
theorem unprivileged_of_isTms {s : State} (h : s.plat.isTms = true) : unprivileged s = false := by
  cases hu : unprivileged s with
  | false => rfl
  | true =>
    have hprivilege : s.plat.hasPrivilege = true := (Bool.and_eq_true_iff.mp hu).1
    cases (isTms_of_hasPrivilege hprivilege).symm.trans h

/-- IDLE sets the idle flag where it may run, and the TMS9900 signals before. -/
theorem exec_idle {s : State} (hu : unprivileged s = false) :
    exec .idle s = .next (((if s.plat.isTms then s.emit (.signal .idle) else s).setIdle true).setLd .none) := by
  refine complete_ok ((whenPrivileged_of_privileged hu 0 _).trans ?_)
  cases s.plat.isTms <;> rfl

/-- Settles O45: the two kinds of variant are the two branches of a control instruction. -/
theorem controlInstructions : Obligations.ControlInstructions := by
  refine ⟨fun s h hu => ⟨?rset, ?ckof, ?ckon, ?idle⟩, fun s h => ⟨?rsetTms, ?ckofTms, ?ckonTms, ?lrexTms, ?idleTms⟩⟩
  case rset => exact complete_ok (control_of_privileged h hu _ _)
  case ckof => exact complete_ok (control_of_privileged h hu _ _)
  case ckon => exact complete_ok (control_of_privileged h hu _ _)
  case idle => rw [exec_idle hu, if_neg (by simp [h])]
  case rsetTms => exact complete_ok (control_of_isTms h _ _)
  case ckofTms => exact complete_ok (control_of_isTms h _ _)
  case ckonTms => exact complete_ok (control_of_isTms h _ _)
  case lrexTms => exact complete_ok (control_of_isTms h _ _)
  case idleTms => rw [exec_idle (unprivileged_of_isTms h), if_pos h]

/-! ## Accesses without the map option, and under another status word (20_memory.md R62, R67) -/

/-- Without the map option every map file gives the same places. -/
theorem place_of_not_hasMap {s : State} (h : s.plat.hasMap = false) (f g : MapNo) (a : Word) : place s f a = place s g a := by
  simp [place, physical, h]

/-- Two map files with the same places read the same words. -/
theorem readWord_congr {f g : MapNo} {s : State} (h : ∀ a, place s f a = place s g a) (a : Word) :
    readWord f a s = readWord g a s := by
  rw [readWord_apply, readWord_apply, h]

/-- A read through a map file that is named does not depend on ST. -/
theorem readWord_setSt {f : MapNo} {a v : Word} {s t : State} (h : readWord f a s = .ok (v, t)) (st : Word) :
    readWord f a (s.setSt st) = .ok (v, t.setSt st) := by
  have hplace : place (s.setSt st) f (evenAddress a) = place s f (evenAddress a) := place_congr rfl rfl rfl rfl f _
  rw [readWord_apply] at h ⊢
  rw [hplace]
  cases hp : place s f (evenAddress a) with
  | error e => rw [hp] at h; cases h
  | ok kp =>
    obtain ⟨k, p⟩ := kp
    rw [hp] at h
    cases h
    cases k <;> rfl

theorem storedWord_setSt (k : Config.RegionKind) (p : Nat) (v st : Word) (s : State) :
    storedWord k p v (s.setSt st) = (storedWord k p v s).setSt st := by
  cases k <;> rfl

/-- The same places, in a state and through a map file that place accesses alike. -/
def SavePlaces.transport {s t : State} {f g : MapNo} {newWp : Word} (x : SavePlaces s f newWp)
    (h : ∀ a, place t g a = place s f a) : SavePlaces t g newWp :=
  { x with
    at13 := (h _).trans x.at13
    at14 := (h _).trans x.at14
    at15 := (h _).trans x.at15 }

/-- The saves are the same words at the same places, and leave ST. -/
theorem SavePlaces.saved_transport_setSt {s t : State} {f g : MapNo} {newWp : Word} (x : SavePlaces s f newWp)
    (h : ∀ a, place t g a = place s f a) (wp pc old st : Word) (u : State) :
    (x.transport h).saved wp pc old (u.setSt st) = (x.saved wp pc old u).setSt st := by
  simp only [SavePlaces.saved, SavePlaces.transport, storedWord_setSt]

/-! ## LREX (44_control_cru.md R204) -/

/-- ST during LREX's context switch: map file 0 is in force. -/
def lrexStatus (s : State) : Word := if s.plat.hasMap then setFlag .mf false s.st else s.st

/-- The map file in force during LREX's context switch has the places of map file 0. -/
theorem place_lrexStatus (s : State) (a : Word) :
    place s (currentMap (s.setSt (lrexStatus s))) a = place s .zero a := by
  cases h : s.plat.hasMap with
  | true => simp [currentMap, lrexStatus, h]
  | false => exact place_of_not_hasMap h _ _ a

/-- A context switch through map file 0, with the status word LREX switches under. -/
theorem contextSwitch_lrexStatus {vec wp pc old newWp newPc : Word} {s s1 s2 : State}
    (h1 : readWord .zero vec s = .ok (newWp, s1)) (h2 : readWord .zero (vec + 2) s1 = .ok (newPc, s2))
    (x : SavePlaces s2 .zero newWp) :
    contextSwitch vec wp pc old none (s.setSt (lrexStatus s)) =
      .ok ((), (((x.saved wp pc old s2).setSt (lrexStatus s)).setWp newWp).jump newPc) := by
  have hread1 : ReadFrame s s1 := (readWord_frame h1).1
  have hread2 : ReadFrame s s2 := hread1.trans (readWord_frame h2).1
  generalize hf : currentMap (s.setSt (lrexStatus s)) = f
  have hplace : ∀ a, place s f a = place s .zero a := hf ▸ place_lrexStatus s
  have hplace1 : ∀ a, place s1 f a = place s1 .zero a := fun a => by rw [hread1.place, hread1.place, hplace]
  have hplace2 : ∀ a, place (s2.setSt (lrexStatus s)) f a = place s2 .zero a := fun a => by
    rw [show place (s2.setSt (lrexStatus s)) f a = place s2 f a from place_congr rfl rfl rfl rfl f a, hread2.place,
      hread2.place, hplace]
  rw [← readWord_congr hplace] at h1
  rw [← readWord_congr hplace1] at h2
  rw [contextSwitch_ok hf (readWord_setSt h1 _) (readWord_setSt h2 _) (x.transport hplace2), x.saved_transport_setSt]

/-- LREX where it may run: the context switch through FFFC, then the mask is 0. -/
theorem exec_lrex {newWp newPc : Word} {s s1 s2 : State} (h : s.plat.isTms = false) (hu : unprivileged s = false)
    (h1 : readWord .zero 0xFFFC s = .ok (newWp, s1)) (h2 : readWord .zero 0xFFFE s1 = .ok (newPc, s2))
    (x : SavePlaces s2 .zero newWp) :
    exec .lrex s = .next (((((x.saved s.wp s.pc s.st s2).setSt (setMask 0 (lrexStatus s))).setWp newWp).setPc
      (evenAddress newPc)).setLd .none) := by
  have hswitch := contextSwitch_lrexStatus (wp := s.wp) (pc := s.pc) (old := s.st) h1 h2 x
  refine complete_ok ((control_of_privileged h hu _ _).trans ?_)
  rw [Op.get_bind]
  cases hmap : s.plat.hasMap with
  | true =>
    have hst : lrexStatus s = setFlag .mf false s.st := by simp [lrexStatus, hmap]
    rw [hst] at hswitch ⊢
    rw [if_pos rfl, Op.setStatus_bind]
    exact Op.bind_ok hswitch
  | false =>
    have hst : lrexStatus s = s.st := by simp [lrexStatus, hmap]
    rw [hst] at hswitch ⊢
    exact Op.bind_ok hswitch

/-- The status word LREX leaves has MF cleared, with the map option, and the mask 0. -/
theorem lrexStatus_statusAndMask (s : State) :
    StatusAndMask s.st (setMask 0 (lrexStatus s)) (if s.plat.hasMap then [(.mf, false)] else []) 0 := by
  have hwritten : StatusWritten s.st (lrexStatus s) (if s.plat.hasMap then [(.mf, false)] else []) := by
    unfold lrexStatus
    split
    · exact setFlag_written .mf false s.st
    · exact .none s.st
  obtain ⟨hfields, hrest⟩ := hwritten
  refine ⟨maskOf_setMask 0 _, fun x hx => (flag_setMask x.1 0 _).trans (hfields x hx), fun i hlow hi hout => ?_⟩
  rw [getLsbD_setMask, if_neg (by omega)]
  exact hrest i hi hout

/-- Settles O46: the two reads of the vector write nothing, and the saves write their six bytes. -/
theorem loadOrRestart : Obligations.LoadOrRestart := by
  intro s s1 s2 newWp newPc x h hu h1 h2
  have hreads : ReadFrame s s2 := (readWord_frame h1).1.trans (readWord_frame h2).1
  exact ⟨_, exec_lrex h hu h1 h2 x, rfl, lrexStatus_statusAndMask s, fun q hout hquiet =>
    (x.saved_byte _ _ _ s2 hout (hquiet.suffix hreads.dmaEnv)).trans (hreads.mem q hquiet)⟩

/-! ## CRU lines (20_memory.md R70 to R73) -/

/-- The base line is half of R12, modulo 4096. -/
theorem cruBase_eq_ofNat (r12 : Word) : cruBase r12 = BitVec.ofNat 12 (r12.toNat / 2) := by
  apply BitVec.eq_of_toNat_eq
  rw [cruBase, BitVec.extractLsb'_toNat, BitVec.toNat_ofNat, Nat.shiftRight_eq_div_pow]

/-- The line of a single-bit instruction, in numbers (20_memory.md R71). -/
theorem cruBitLine_eq {r12 : Word} {d : BitVec 8} {line : BitVec 12}
    (h : (line.toNat : Int) = ((r12.toNat / 2 : Nat) + d.toInt) % 4096) : cruBitLine r12 d = line := by
  have hint : cruBitLine r12 d = BitVec.ofInt 12 ((r12.toNat / 2 : Nat) + d.toInt) := by
    rw [BitVec.ofInt_add, BitVec.ofInt_natCast, cruBitLine, cruBase_eq_ofNat]
    rfl
  apply BitVec.eq_of_toNat_eq
  rw [hint, BitVec.toNat_ofInt, show ((2 ^ 12 : Nat) : Int) = 4096 from rfl, ← h, Int.toNat_natCast]

/-- A CRU instruction reads R12 and goes on, unless its line is privileged and the state is not (20_memory.md R73). -/
theorem withCruLine_ok {line : Word → BitVec 12} {n : Nat} {body : Word → Op Unit} {s s1 : State} {r12 : Word}
    (h : readReg 12 s = .ok (r12, s1)) (hline : unprivileged s = true → (line r12).toNat < 0xE00) :
    (do let r ← readReg 12; withCruLine (line r) n (body r) : Op Unit) s = body r12 s1 := by
  rw [Op.bind_ok h]
  unfold withCruLine
  split
  · rename_i hpriv
    have hge : 0xE00 ≤ (line r12).toNat := by simpa [cruPrivileged] using hpriv
    refine whenPrivileged_of_privileged ?_ n _
    rw [(readReg_frame h).1.unprivileged, Bool.eq_false_iff]
    exact fun hu => absurd (hline hu) (Nat.not_lt.mpr hge)
  · rfl

theorem cruIn_apply (line : BitVec 12) (s : State) :
    cruIn line s = .ok (Config.cruInput s.draws line,
      (s.setDraws (s.draws + 1)).emit (.cruIn line (Config.cruInput s.draws line))) := rfl

/-- TB: the line's free value is drawn, and EQ takes it. -/
theorem exec_tb {s s1 : State} {r12 : Word} {d : BitVec 8} (h : readReg 12 s = .ok (r12, s1))
    (hline : unprivileged s = true → (cruBitLine r12 d).toNat < 0xE00) :
    exec (.tb d) s = .next ((((s1.setDraws (s1.draws + 1)).emit
      (.cruIn (cruBitLine r12 d) (Config.cruInput s1.draws (cruBitLine r12 d)))).setSt
        (setFlag .eq (Config.cruInput s1.draws (cruBitLine r12 d)) s1.st)).setLd .none) := by
  refine complete_ok ((withCruLine_ok (line := (cruBitLine · d)) h hline).trans ?_)
  exact Op.bind_ok (cruIn_apply _ s1)

/-- Settles O49: SBO, SBZ and TB touch one line, which is the base plus the displacement. -/
theorem cruBits : Obligations.CruBits := by
  intro s s1 r12 d line h hline hpriv
  obtain rfl : cruBitLine r12 d = line := cruBitLine_eq hline
  exact ⟨complete_ok (withCruLine_ok (line := (cruBitLine · d)) h hpriv),
    complete_ok (withCruLine_ok (line := (cruBitLine · d)) h hpriv),
    _, exec_tb h hpriv, rfl, setFlag_written .eq _ s1.st⟩

/-! ## Runs of lines (44_control_cru.md R209, R210) -/

/-- The first line driven takes the low bit, and its event is the oldest. -/
theorem linesDriven_succ (base n : Nat) (v : Word) :
    linesDriven base (n + 1) v = linesDriven (base + 1) n (v >>> 1) ++ [.cruOut (BitVec.ofNat 12 base) (v.getLsbD 0)] := by
  simp [linesDriven, List.range_succ_eq_map, Function.comp_def, Nat.add_assoc, Nat.add_comm 1]

/-- The first line read draws the first free value, and its event is the oldest. -/
theorem linesRead_succ (base n draws : Nat) :
    linesRead base (n + 1) draws = linesRead (base + 1) n (draws + 1) ++
      [.cruIn (BitVec.ofNat 12 base) (Config.cruInput draws (BitVec.ofNat 12 base))] := by
  simp [linesRead, List.range_succ_eq_map, Function.comp_def, Nat.add_assoc, Nat.add_comm 1]

theorem ofNat_succ_line (base : Nat) : BitVec.ofNat 12 (base + 1) = BitVec.ofNat 12 base + 1 := BitVec.ofNat_add base 1

/-- Driving lines records their events and changes nothing else. -/
theorem cruOutBits_ok (n base : Nat) (v : Word) (s : State) :
    cruOutBits n (BitVec.ofNat 12 base) v s = .ok ((), s.setEvents (linesDriven base n v ++ s.events)) := by
  induction n generalizing base v s with
  | zero => rfl
  | succ n ih =>
    rw [cruOutBits, Op.bind_ok (cruOut_apply _ _ s), ← ofNat_succ_line, ih, linesDriven_succ, List.append_assoc]
    rfl

/-- A word shifted up by one, with a bit put below it: how STCR collects its lines. -/
theorem getLsbD_shiftLeft_or_bit (rest : Word) (b : Bool) {i : Nat} (hi : i < 16) :
    ((rest <<< 1) ||| (if b then 1 else 0)).getLsbD i = if i = 0 then b else rest.getLsbD (i - 1) := by
  have hbit : (if b then 1 else 0 : Word).getLsbD i = (b && decide (i = 0)) := by cases b <;> simp
  rw [BitVec.getLsbD_or, BitVec.getLsbD_shiftLeft, hbit]
  cases i with
  | zero => simp
  | succ i => simp [hi]

/-- Reading lines draws their free values, records their events, and answers the values as the low bits of a word. -/
theorem cruInBits_ok (n base : Nat) (s : State) :
    ∃ v : Word, cruInBits n (BitVec.ofNat 12 base) s =
        .ok (v, (s.setDraws (s.draws + n)).setEvents (linesRead base n s.draws ++ s.events)) ∧
      ∀ i, i < 16 → v.getLsbD i = (decide (i < n) && Config.cruInput (s.draws + i) (BitVec.ofNat 12 (base + i))) := by
  induction n generalizing base s with
  | zero => exact ⟨0, rfl, fun i _ => by simp⟩
  | succ n ih =>
    obtain ⟨rest, hrest, hbits⟩ := ih (base + 1)
      ((s.setDraws (s.draws + 1)).emit (.cruIn (BitVec.ofNat 12 base) (Config.cruInput s.draws (BitVec.ofNat 12 base))))
    refine ⟨(rest <<< 1) ||| (if Config.cruInput s.draws (BitVec.ofNat 12 base) then 1 else 0), ?answer, fun i hi => ?bits⟩
    case answer =>
      rw [cruInBits, Op.bind_ok (cruIn_apply _ s), ← ofNat_succ_line, Op.bind_ok hrest, linesRead_succ,
        List.append_assoc, Nat.add_comm n 1, ← Nat.add_assoc]
      rfl
    case bits =>
      rw [getLsbD_shiftLeft_or_bit _ _ hi]
      cases i with
      | zero => simp
      | succ i =>
        rw [if_neg (by omega), Nat.add_sub_cancel, hbits i (by omega)]
        simp [State.emit, Nat.add_assoc, Nat.add_comm 1]

/-! ## LDCR and STCR -/

section

variable {g : GenAddr} {c : BitVec 4} {s s1 s2 : State} {r12 : Word} {l : Loc} {k : Config.RegionKind} {p : Nat}

/-- The base line of a multi-bit transfer may be used. -/
theorem cruBase_allowed (h : unprivileged s = true → r12.toNat / 2 % 4096 < 0xE00) :
    unprivileged s = true → (cruBase r12).toNat < 0xE00 := by
  rw [cruBase_eq_ofNat, BitVec.toNat_ofNat]
  exact h

theorem exec_ldcr_byte {v : Byte} (hn : cruCount c ≤ 8) (h : readReg 12 s = .ok (r12, s1))
    (hline : unprivileged s = true → r12.toNat / 2 % 4096 < 0xE00) (hv : operandByte .src g s1 = .ok ((l, v), s2)) :
    exec (.ldcr g c) s = .next (((s2.setEvents (linesDriven (r12.toNat / 2) (cruCount c) (v.setWidth 16) ++ s2.events)).setSt
      ((Computed.logicalByte v).status s2.st)).setLd .none) := by
  refine complete_ok ((withCruLine_ok (line := cruBase) h (cruBase_allowed hline)).trans ?_)
  rw [if_pos hn, Op.bind_ok hv, cruBase_eq_ofNat]
  exact Op.bind_ok (cruOutBits_ok _ _ _ s2)

theorem exec_ldcr_word {v : Word} (hn : ¬ cruCount c ≤ 8) (h : readReg 12 s = .ok (r12, s1))
    (hline : unprivileged s = true → r12.toNat / 2 % 4096 < 0xE00) (hv : operandWord .src g s1 = .ok ((l, v), s2)) :
    exec (.ldcr g c) s = .next (((s2.setEvents (linesDriven (r12.toNat / 2) (cruCount c) v ++ s2.events)).setSt
      (compareToZero v s2.st)).setLd .none) := by
  refine complete_ok ((withCruLine_ok (line := cruBase) h (cruBase_allowed hline)).trans ?_)
  rw [if_neg hn, Op.bind_ok hv, cruBase_eq_ofNat]
  exact Op.bind_ok (cruOutBits_ok _ _ _ s2)

/-- STCR of at most 8 lines, which answered the word v. -/
theorem exec_stcr_byte {v : Word} {u : State} (hn : cruCount c ≤ 8) (h : readReg 12 s = .ok (r12, s1))
    (hline : unprivileged s = true → r12.toNat / 2 % 4096 < 0xE00) (hl : operandAddress .src .byte g s1 = .ok (l, s2))
    (hv : cruInBits (cruCount c) (cruBase r12) s2 = .ok (v, u)) (hp : place u l.file l.addr = .ok (k, p)) :
    exec (.stcr g c) s = .next (((storedByte k p (v.setWidth 8) u).setSt
      ((Computed.logicalByte (v.setWidth 8)).status u.st)).setLd .none) := by
  refine complete_ok ((withCruLine_ok (line := cruBase) h (cruBase_allowed hline)).trans ?_)
  rw [if_pos hn, Op.bind_ok hl, Op.bind_ok hv, Op.bind_ok (writeByte_ok hp _), setStatus_apply, storedByte_st]

/-- STCR of more than 8 lines, which answered the word v. -/
theorem exec_stcr_word {v : Word} {u : State} (hn : ¬ cruCount c ≤ 8) (h : readReg 12 s = .ok (r12, s1))
    (hline : unprivileged s = true → r12.toNat / 2 % 4096 < 0xE00) (hl : operandAddress .src .word g s1 = .ok (l, s2))
    (hv : cruInBits (cruCount c) (cruBase r12) s2 = .ok (v, u)) (hp : place u l.file (evenAddress l.addr) = .ok (k, p)) :
    exec (.stcr g c) s = .next (((storedWord k p v u).setSt (compareToZero v u.st)).setLd .none) := by
  refine complete_ok ((withCruLine_ok (line := cruBase) h (cruBase_allowed hline)).trans ?_)
  rw [if_neg hn, Op.bind_ok hl, Op.bind_ok hv, Op.bind_ok (writeWord_ok hp _), setStatus_apply, storedWord_st]
  rfl

end

/-- Settles O50: the operand's bits go out from the base on, and the status is that of the whole operand. -/
theorem loadCru : Obligations.LoadCru := by
  intro g c n s s1 s2 r12 l hn h hline
  subst hn
  exact ⟨fun v hle hv => ⟨_, exec_ldcr_byte hle h hline hv, rfl, logicalByte_written v s2.st⟩,
    fun v hlt hv => ⟨_, exec_ldcr_word (Nat.not_le.mpr hlt) h hline hv, rfl, compareToZero_written v s2.st⟩⟩

/-- Settles O51: the lines' free values are the low bits of the word that is stored, or of its right byte. -/
theorem storeCru : Obligations.StoreCru := by
  intro g c n s s1 s2 r12 l k p hn h hline
  subst hn
  obtain ⟨v, hv, hbits⟩ := cruInBits_ok (cruCount c) (r12.toNat / 2) s2
  rw [← cruBase_eq_ofNat] at hv
  refine ⟨fun hle hl hp => ?byte, fun hlt hl hp => ?word⟩
  case byte =>
    refine ⟨_, v.setWidth 8, exec_stcr_byte hle h hline hl hv hp, fun i hi => ?_, rfl, logicalByte_written _ s2.st,
      (storedByte_stored k p (v.setWidth 8) _).1⟩
    rw [BitVec.getLsbD_setWidth, decide_eq_true hi, Bool.true_and]
    exact hbits i (by omega)
  case word =>
    exact ⟨_, v, exec_stcr_word (Nat.not_le.mpr hlt) h hline hl hv hp, hbits, rfl, compareToZero_written v s2.st,
      (storedWord_stored k p v _).1⟩

end Sys2Proof.Machine

/-! PROOFS of 45_load_move.md, with INV, ANDI and ORI of 46_logical.md and LDS and LDD of 48_xop_longdistance.md (O25, O30, O37,
O52, O53, O57). First the results that write LGT, AGT and EQ, OP too, or nothing, then what each instruction does. -/

namespace Sys2Proof.Machine

/-! ## Moved results (40_addressing.md R131, R135) -/

theorem logical_gives {w : Nat} (r : BitVec w) : (Computed.logical r).Gives r (zeroFields r) where
  value := rfl
  status := compareToZero_written r

theorem logicalByte_gives (r : Byte) : (Computed.logicalByte r).Gives r (zeroFields r ++ [parityField r]) where
  value := rfl
  status := logicalByte_written r

theorem silent_gives {w : Nat} (r : BitVec w) : (Computed.silent r).Gives r [] where
  value := rfl
  status := StatusWritten.none

/-! ## Moves to memory (45_load_move.md R220, R225 to R229) -/

section

variable {i : Instr} {s s1 s2 : State} {gs gd : GenAddr} {sl dl : Loc} {w : Reg}

/-- MOV's shape: the destination is addressed in the state the source left, and not read (decision D5). -/
theorem storesWord_of_copyWord {src : Word} (hexec : exec i s = complete (copyWord gs gd) s)
    (hsrc : operandWord .src gs s = .ok ((sl, src), s1)) (hdst : operandAddress .dst .word gd s1 = .ok (dl, s2)) :
    StoresWord i s s2 dl src (zeroFields src) :=
  storesWord_of_body (r := .logical src) hexec (fun _ _ hp => copyWord_ok hsrc hdst hp) (logical_gives src)

theorem storesByte_of_copyByte {src : Byte} (hexec : exec i s = complete (copyByte gs gd) s)
    (hsrc : operandByte .src gs s = .ok ((sl, src), s1)) (hdst : operandAddress .dst .byte gd s1 = .ok (dl, s2)) :
    StoresByte i s s2 dl src (zeroFields src ++ [parityField src]) :=
  storesByte_of_body hexec (fun _ _ hp => copyByte_ok hsrc hdst hp) (logicalByte_gives src)

/-- An instruction that only stores a register writes no status. -/
theorem storesWord_of_writeReg {v : Word} (hexec : exec i s = complete (writeReg w v) s) :
    StoresWord i s s ⟨currentMap s, regAddress s w⟩ v [] := by
  refine storesWord_of_body hexec (fun k p hp => ?_) (silent_gives v)
  rw [writeReg_ok hp v, ← storedWord_st k p v s]
  rfl

/-- LI does not read the register it loads. -/
theorem storesWord_li {iop : Word} (h : fetch s = .ok (iop, s1)) :
    StoresWord (.li w) s s1 ⟨currentMap s1, regAddress s1 w⟩ iop (zeroFields iop) := by
  refine storesWord_of_body rfl (fun k p hp => ?_) (logical_gives iop)
  rw [Op.bind_ok h, Op.bind_ok (writeReg_ok hp iop), setStatus_apply, storedWord_st]
  rfl

end

/-- Settles O25: MOV and MOVB are the two copies. -/
theorem moveOperand : Obligations.MoveOperand :=
  ⟨fun _ _ _ _ _ _ _ _ hsrc hdst => storesWord_of_copyWord rfl hsrc hdst,
    fun _ _ _ _ _ _ _ _ hsrc hdst => storesByte_of_copyByte rfl hsrc hdst⟩

/-- Settles O30: three results of the same kind, of which LI's needs no register. -/
theorem logicalAndLoadImmediate : Obligations.LogicalAndLoadImmediate :=
  ⟨fun _ _ _ _ iop a hiop ha => ⟨storesWord_of_immediateResult rfl hiop ha (logical_gives (a &&& iop)),
      storesWord_of_immediateResult rfl hiop ha (logical_gives (a ||| iop))⟩,
    fun _ _ _ _ hiop => storesWord_li hiop⟩

/-- Settles O37: INV's result writes LGT, AGT and EQ, and SWPB's, the right byte before the left one, writes nothing. -/
theorem invertAndSwap : Obligations.InvertAndSwap := fun _ _ _ _ a ha =>
  ⟨storesWord_of_modifyWord rfl ha (logical_gives (~~~a)),
    storesWord_of_modifyWord rfl ha (silent_gives (wordOf (rightByte a) (leftByte a)))⟩

/-! ## Moves to the processor's registers (45_load_move.md R222, R223) -/

theorem exec_lwpi {s s1 : State} {iop : Word} (h : fetch s = .ok (iop, s1)) :
    exec .lwpi s = .next ((s1.setWp iop).setLd .none) := by
  refine complete_ok ?_
  rw [Op.bind_ok h, update_apply]

/-- LIMI where it may run: the mask is the four low bits of the immediate word. -/
theorem exec_limi {s s1 : State} {iop : Word} (hu : unprivileged s = false) (h : fetch s = .ok (iop, s1)) :
    exec .limi s = .next ((s1.setSt (setMask (iop.extractLsb' 0 4) s1.st)).setLd .none) := by
  refine complete_ok ((whenPrivileged_of_privileged hu 1 _).trans ?_)
  rw [Op.bind_ok h, setStatus_apply]

/-- Settles O52: the two branches of a privileged body; a mask written leaves the bits from 4 up. -/
theorem loadInterruptMask : Obligations.LoadInterruptMask := by
  refine ⟨fun s s1 iop hu h => ⟨_, exec_limi hu h, rfl, ?mask, fun i hlow _ => ?rest⟩, fun s hu => ?trap⟩
  case mask =>
    change (maskOf (setMask (iop.extractLsb' 0 4) s1.st)).toNat = iop.toNat % 16
    rw [maskOf_setMask, BitVec.extractLsb'_toNat, Nat.shiftRight_zero]
  case rest =>
    change (setMask (iop.extractLsb' 0 4) s1.st).getLsbD i = s1.st.getLsbD i
    rw [getLsbD_setMask, if_neg (Nat.not_lt.mpr hlow)]
  case trap => exact complete_ok (whenPrivileged_of_unprivileged hu 1 _)

/-- Settles O53: LWPI writes no memory, and STST and STWP are stores of one register. -/
theorem processorRegisterMoves : Obligations.ProcessorRegisterMoves :=
  ⟨fun _ _ _ h => exec_lwpi h, fun _ _ => ⟨storesWord_of_writeReg rfl, storesWord_of_writeReg rfl⟩⟩

/-! ## Map files (45_load_move.md R224, 48_xop_longdistance.md R275, R276) -/

/-- With the map option its instructions run. -/
theorem withMapOption_of_hasMap {α : Type} {s : State} (h : s.plat.hasMap = true) (body : Op α) :
    withMapOption body s = body s := by
  unfold withMapOption
  rw [if_pos h]

/-- A body that answers a latch ends the instruction with it. -/
theorem completeLatching_ok {body : Op LongDistance} {s t : State} {ld : LongDistance} (h : body s = .ok (ld, t)) :
    completeLatching body s = .next (t.setLd ld) := by
  unfold completeLatching
  rw [h]

section

variable {s s1 s2 : State} {m : MapFile}

/-- LMF reads the six words through the map file in force, and replaces the map file its field names. -/
theorem exec_lmf {n : BitVec 1} {w : Reg} {a : Word} (hmap : s.plat.hasMap = true) (hu : unprivileged s = false)
    (ha : readReg w s = .ok (a, s1)) (hm : loadMapFile ⟨currentMap s1, a⟩ s1 = .ok (m, s2)) :
    exec (.lmf n w) s = .next ((if n = 0 then s2.setMap0 m else s2.setMap1 m).setLd .none) := by
  refine complete_ok ((withMapOption_of_hasMap hmap _).trans ((whenPrivileged_of_privileged hu 0 _).trans ?_))
  rw [Op.bind_ok ha, Op.get_bind, Op.bind_ok hm, update_apply]

/-- LDS and LDD, where they may run: map file 2 replaced, and the latch of the next instruction answered. -/
theorem longDistance_ok {g : GenAddr} {l : Loc} (next : LongDistance) (hmap : s.plat.hasMap = true)
    (hu : unprivileged s = false) (hl : operandAddress .src .word g s = .ok (l, s1)) (hm : loadMapFile l s1 = .ok (m, s2)) :
    longDistance g next s = .ok (next, s2.setMap2 m) := by
  unfold longDistance
  rw [withMapOption_of_hasMap hmap, if_neg (by simp [hu]), Op.bind_ok hl, Op.bind_ok hm, Op.update_bind, Op.pure_apply]

/-- Six RAM or ROM words in a row, each as it stands after the environment's turn before it (20_memory.md R74). -/
theorem loadMapFile_ok {l : Loc} (h1 : HoldsWord s.turn l.file l.addr m.l1)
    (h2 : HoldsWord s.turn.turn l.file (l.addr + 2) m.b1) (h3 : HoldsWord s.turn.turn.turn l.file (l.addr + 4) m.l2)
    (h4 : HoldsWord s.turn.turn.turn.turn l.file (l.addr + 6) m.b2)
    (h5 : HoldsWord s.turn.turn.turn.turn.turn l.file (l.addr + 8) m.l3)
    (h6 : HoldsWord s.turn.turn.turn.turn.turn.turn l.file (l.addr + 10) m.b3) :
    loadMapFile l s = .ok (m, s.turn.turn.turn.turn.turn.turn) := by
  unfold loadMapFile
  rw [Op.bind_ok h1.read, Op.bind_ok h2.read, Op.bind_ok h3.read, Op.bind_ok h4.read, Op.bind_ok h5.read,
    Op.bind_ok h6.read, Op.pure_apply]

end

/-- Settles O57: LMF's field selects map file 0 or 1; LDS and LDD are one body with their two latches. -/
theorem mapFileLoads : Obligations.MapFileLoads :=
  ⟨fun _ _ _ _ _ _ hmap hu ha hm => ⟨exec_lmf hmap hu ha hm, exec_lmf hmap hu ha hm⟩,
    fun _ _ _ _ _ _ hmap hu hl hm =>
      ⟨completeLatching_ok (longDistance_ok .src hmap hu hl hm), completeLatching_ok (longDistance_ok .dst hmap hu hl hm)⟩,
    fun _ _ _ _ h1 h2 h3 h4 h5 h6 => loadMapFile_ok h1 h2 h3 h4 h5 h6⟩

end Sys2Proof.Machine

/-! PROOFS of 46_logical.md: SOC, SZC, SOCB, SZCB, XOR, CLR and SETO (O23, O24, O31, O38). INV, ANDI and ORI stand with the moves.
First the two shapes that are new here, a register combined with a source and an operand filled, then what each instruction
does. -/

namespace Sys2Proof.Machine

section

variable {i : Instr} {s s1 s2 : State} {g : GenAddr}

/-- XOR's shape (46_logical.md R242): the register is read after the source and its autoincrement (decision D5), and it is
through the map file then in force that the result is stored. -/
theorem storesWord_xor {sl : Loc} {d : Reg} {src x : Word} (hsrc : operandWord .src g s = .ok ((sl, src), s1))
    (hx : readReg d s1 = .ok (x, s2)) :
    StoresWord (.xor g d) s s2 ⟨currentMap s2, regAddress s2 d⟩ (src ^^^ x) (zeroFields (src ^^^ x)) := by
  refine storesWord_of_body rfl (fun k p hp => ?_) (logical_gives (src ^^^ x))
  rw [Op.bind_ok hsrc]
  dsimp only
  rw [Op.bind_ok hx, Op.bind_ok (writeReg_ok hp _), setStatus_apply, storedWord_st]

/-- CLR's and SETO's shape: an operand that is addressed and filled, with no status (40_addressing.md R128). -/
theorem storesWord_of_fillWord {l : Loc} {v : Word} (hexec : exec i s = complete (fillWord g v) s)
    (hl : operandAddress .src .word g s = .ok (l, s1)) : StoresWord i s s1 l v [] := by
  refine storesWord_of_body hexec (fun k p hp => ?_) (silent_gives v)
  rw [fillWord_ok hl hp v, ← storedWord_st k p v s1]
  rfl

end

/-- Settles O23: both are a binary word shape with a logical result of the destination and the source. -/
theorem setBitsWords : Obligations.SetBitsWords := fun _ _ _ _ _ _ _ src dst hsrc hdst =>
  ⟨storesWord_of_binaryWord rfl hsrc hdst (logical_gives (dst ||| src)),
    storesWord_of_binaryWord rfl hsrc hdst (logical_gives (dst &&& ~~~src))⟩

/-- Settles O24: as O23 on bytes, whose result also writes OP. -/
theorem setBitsBytes : Obligations.SetBitsBytes := fun _ _ _ _ _ _ _ src dst hsrc hdst =>
  ⟨storesByte_of_binaryByte rfl hsrc hdst (logicalByte_gives (dst ||| src)),
    storesByte_of_binaryByte rfl hsrc hdst (logicalByte_gives (dst &&& ~~~src))⟩

/-- Settles O31: the register's address is the one after the source's evaluation. -/
theorem exclusiveOr : Obligations.ExclusiveOr := fun _ _ _ _ _ _ _ _ hsrc hx => storesWord_xor hsrc hx

/-- Settles O38: the two fills. -/
theorem clearAndSet : Obligations.ClearAndSet := fun _ _ _ _ hl =>
  ⟨storesWord_of_fillWord rfl hl, storesWord_of_fillWord rfl hl⟩

end Sys2Proof.Machine

/-! PROOFS of 47_shift.md: the right shifts (O54) and SLA (O55). First the count; then each shifted word as a number or bit by bit,
with SLA's test on the sign bits as a bound on the operand; then the instructions. -/

namespace Sys2Proof.Machine

/-! ## The count (47_shift.md R260) -/

/-- A count is at most 16. -/
theorem CountOf.le_sixteen {c : BitVec 4} {s s1 : State} {n : Nat} (h : CountOf c s s1 n) : n ≤ 16 := by
  rcases h with ⟨-, rfl, -⟩ | ⟨-, r0, -, rfl⟩
  · exact c.isLt.le
  · split <;> omega

/-- The model's count is the one `CountOf` says. -/
theorem CountOf.shiftCount_ok {c : BitVec 4} {s s1 : State} {n : Nat} (h : CountOf c s s1 n) :
    shiftCount c s = .ok (n, s1) := by
  unfold shiftCount
  rcases h with ⟨hc, rfl, rfl⟩ | ⟨rfl, r0, hr0, rfl⟩
  · rw [if_pos (bne_iff_ne.mpr hc), Op.pure_apply]
  · have hlow : (r0.extractLsb' 0 4).toNat = r0.toNat % 16 := BitVec.extractLsb'_toNat ..
    rw [if_neg (by simp), Op.bind_ok hr0, Op.pure_apply, hlow]
    simp only [bne_iff_ne, ite_not]

/-! ## What the right shifts store (47_shift.md R261, R263, R264) -/

/-- The low word of the sign-extended operand shifted right is the operand shifted with copies of its sign, up to 16 places. -/
theorem setWidth_signExtend_ushiftRight (a : Word) {n : Nat} (hn : n ≤ 16) :
    ((a.signExtend 32) >>> n).setWidth 16 = a.sshiftRight n := by
  apply BitVec.eq_of_getLsbD_eq
  intro i hi
  rw [BitVec.getLsbD_setWidth, BitVec.getLsbD_ushiftRight, BitVec.getLsbD_signExtend, BitVec.getLsbD_sshiftRight]
  simp [hi, show n + i < 32 by omega]

/-- A shift with copies of the sign divides the signed number, rounding down. -/
theorem sshiftRight_eq_ofInt {w : Nat} (a : BitVec w) (n : Nat) : a.sshiftRight n = BitVec.ofInt w (a.toInt / 2 ^ n) := by
  rw [BitVec.sshiftRight, Int.shiftRight_eq_div_pow, Nat.cast_pow, Nat.cast_ofNat]

/-- A shift with zeros divides the unsigned number. -/
theorem ushiftRight_eq_ofNat {w : Nat} (a : BitVec w) (n : Nat) : a >>> n = BitVec.ofNat w (a.toNat / 2 ^ n) := by
  rw [← Nat.shiftRight_eq_div_pow, ← BitVec.toNat_ushiftRight, BitVec.ofNat_toNat, BitVec.setWidth_eq]

/-- The two parts of a rotated word: the low ones come from n places up, and the others wrap around. -/
theorem getLsbD_rotated (a : Word) {n i : Nat} (hn : n ≤ 16) (hi : i < 16) :
    ((a >>> n) ||| (a <<< (16 - n))).getLsbD i = a.getLsbD ((i + n) % 16) := by
  rw [BitVec.getLsbD_or, BitVec.getLsbD_ushiftRight, BitVec.getLsbD_shiftLeft]
  by_cases hin : i + n < 16
  · rw [Nat.mod_eq_of_lt hin, Nat.add_comm n i]
    simp [show i < 16 - n by omega]
  · rw [BitVec.getLsbD_of_ge a (n + i) (by omega), show (i + n) % 16 = i - (16 - n) by omega]
    simp [hi, show ¬ i < 16 - n by omega]

/-! ## What SLA stores and writes to OV (47_shift.md R262) -/

/-- A shift left multiplies, modulo 2^w. -/
theorem shiftLeft_eq_ofInt {w : Nat} (a : BitVec w) (n : Nat) : a <<< n = BitVec.ofInt w (a.toInt * 2 ^ n) := by
  have hpow : BitVec.ofInt w (2 ^ n) = BitVec.twoPow w n := by
    rw [← Nat.cast_ofNat, ← Nat.cast_pow, BitVec.ofInt_natCast]
    exact BitVec.eq_of_toNat_eq (BitVec.toNat_twoPow w n).symm
  rw [BitVec.ofInt_mul, BitVec.ofInt_toInt, hpow, BitVec.shiftLeft_eq_mul_twoPow]

/-- The bits from m up are 0 exactly in the numbers below 2^m. -/
theorem highBits_false_iff {w : Nat} (x : BitVec w) (m : Nat) :
    (∀ i, m ≤ i → i < w → x.getLsbD i = false) ↔ x.toNat < 2 ^ m := by
  constructor
  · intro h
    refine Nat.lt_pow_two_of_testBit _ fun i hi => ?_
    by_cases hw : i < w
    · exact h i hi hw
    · exact BitVec.getLsbD_of_ge x i (by omega)
  · intro h i hi _
    exact Nat.testBit_lt_two_pow (h.trans_le (Nat.pow_le_pow_right (by decide) hi))

/-- The bits from m up are copies of the sign exactly in the numbers of m + 1 bits: a negative number's complement is the
nonnegative one with the other bits. -/
theorem highBits_sign_iff {w : Nat} (x : BitVec w) (m : Nat) :
    (∀ i, m ≤ i → i < w → x.getLsbD i = x.msb) ↔ -2 ^ m ≤ x.toInt ∧ x.toInt < 2 ^ m := by
  have hx := x.isLt
  have hsign := BitVec.toInt_eq_msb_cond x
  have hpos : 0 < 2 ^ m := Nat.two_pow_pos m
  rw [show (2 : Int) ^ m = (2 ^ m : Nat) by norm_cast]
  cases hmsb : x.msb with
  | false =>
    rw [highBits_false_iff]
    simp only [hmsb, Bool.false_eq_true, if_false] at hsign
    omega
  | true =>
    have hnot : (∀ i, m ≤ i → i < w → x.getLsbD i = true) ↔ (~~~x).toNat < 2 ^ m := by
      rw [← highBits_false_iff]
      refine forall₃_congr fun i _ hi => ?_
      simp [hi]
    rw [hnot, BitVec.toNat_not]
    simp only [hmsb, if_true] at hsign
    omega

/-- The operand followed by one zero is twice the operand. -/
theorem toInt_append_zero (a : Word) : (a ++ (0 : BitVec 1)).toInt = 2 * a.toInt := by
  rw [BitVec.toInt_append]
  simp

/-- The 17 bits of the spec's test are equal exactly when twice the operand has 17 - n bits. -/
theorem signChanges_eq_false_iff (a : Word) {n : Nat} (hn : n ≤ 16) :
    signChanges a n = false ↔ -2 ^ (16 - n) ≤ 2 * a.toInt ∧ 2 * a.toInt < 2 ^ (16 - n) := by
  rw [← toInt_append_zero, ← highBits_sign_iff, BitVec.msb_eq_getLsbD_last]
  simp only [signChanges, List.any_eq_false, List.mem_range, bne_iff_ne, ne_eq, not_not]
  constructor
  · intro h i hlow hi
    have hk := h (16 - i) (by omega)
    rwa [show 16 - (16 - i) = i by omega] at hk
  · intro h k hk
    exact h (16 - k) (by omega) (by omega)

/-- OV of SLA: the sign bits change exactly when the product does not fit. -/
theorem signChanges_overflow (a : Word) {n : Nat} (hn : n ≤ 16) :
    (Flag.ov, signChanges a n) = overflowField 16 (a.toInt * 2 ^ n) := by
  have hpos : (0 : Int) < 2 ^ n := by positivity
  have hsplit : (2 : Int) ^ (16 - n) * 2 ^ n = 65536 := by
    rw [← pow_add, Nat.sub_add_cancel hn]
    rfl
  have hlow : -2 ^ (16 - n) ≤ 2 * a.toInt ↔ -65536 ≤ 2 * (a.toInt * 2 ^ n) := by
    rw [← mul_le_mul_iff_left₀ hpos, neg_mul, hsplit, mul_assoc]
  have hhigh : 2 * a.toInt < 2 ^ (16 - n) ↔ 2 * (a.toInt * 2 ^ n) < 65536 := by
    rw [← mul_lt_mul_iff_left₀ hpos, hsplit, mul_assoc]
  have hfits := signChanges_eq_false_iff a hn
  rw [hlow, hhigh] at hfits
  rw [overflowField, Prod.mk.injEq, ← Bool.not_inj_iff, Bool.eq_iff_iff]
  simp only [true_and, Bool.not_eq_true', hfits, decide_eq_false_iff_not]
  omega

/-! ## Results and status (47_shift.md R260) -/

/-- A comparison to zero, then C: the status of a right shift. -/
theorem compareToZero_carry_written (r : Word) (b : Bool) (st : Word) :
    StatusWritten st (setFlag .c b (compareToZero r st)) (zeroFields r ++ [(.c, b)]) :=
  ((compareToZero_written r st).cons .c b (by simp [zeroFields])).perm (by simp [or_comm])

theorem shiftRightArithmetic_gives (a : Word) {n : Nat} (hn : n ≤ 16) :
    (shiftRightArithmetic a n).Gives (BitVec.ofInt 16 (a.toInt / 2 ^ n))
      (zeroFields (BitVec.ofInt 16 (a.toInt / 2 ^ n)) ++ [(.c, a.getLsbD (n - 1))]) := by
  rw [← sshiftRight_eq_ofInt, ← setWidth_signExtend_ushiftRight a hn]
  exact ⟨rfl, compareToZero_carry_written _ _⟩

theorem shiftRightLogical_gives (a : Word) (n : Nat) :
    (shiftRightLogical a n).Gives (BitVec.ofNat 16 (a.toNat / 2 ^ n))
      (zeroFields (BitVec.ofNat 16 (a.toNat / 2 ^ n)) ++ [(.c, a.getLsbD (n - 1))]) := by
  rw [← ushiftRight_eq_ofNat]
  exact ⟨rfl, compareToZero_carry_written _ _⟩

theorem shiftRightCircular_gives (a : Word) (n : Nat) :
    (shiftRightCircular a n).Gives ((a >>> n) ||| (a <<< (16 - n)))
      (zeroFields ((a >>> n) ||| (a <<< (16 - n))) ++ [(.c, a.getLsbD (n - 1))]) :=
  ⟨rfl, compareToZero_carry_written _ _⟩

theorem shiftLeftArithmetic_gives (a : Word) {n : Nat} (hn : n ≤ 16) :
    (shiftLeftArithmetic a n).Gives (BitVec.ofInt 16 (a.toInt * 2 ^ n))
      (zeroFields (BitVec.ofInt 16 (a.toInt * 2 ^ n)) ++
        [(.c, a.getLsbD (16 - n)), overflowField 16 (a.toInt * 2 ^ n)]) := by
  rw [← shiftLeft_eq_ofInt, ← signChanges_overflow a hn]
  exact ⟨rfl, arithmetic_written ⟨a <<< n, a.getLsbD (16 - n), signChanges a n⟩⟩

/-! ## The instructions -/

/-- An instruction that shifts a register stores what its shift gives at the register's address (47_shift.md R260). -/
theorem storesWord_of_shiftRegister {i : Instr} {w : Reg} {c : BitVec 4} {n : Nat} {s s1 s2 : State} {a v : Word}
    {k : Word → Nat → Computed 16} {fields : List (Flag × Bool)} (hexec : exec i s = complete (shiftRegister w c k) s)
    (hn : CountOf c s s1 n) (ha : readReg w s1 = .ok (a, s2)) (hr : (k a n).Gives v fields) :
    StoresWord i s s2 ⟨currentMap s2, regAddress s2 w⟩ v fields :=
  storesWord_of_body hexec (fun _ _ hp => shiftRegister_ok hn.shiftCount_ok ha hp k) hr

/-- Settles O54: a quotient of the signed number, one of the unsigned number, and the rotation. -/
theorem shiftsRight : Obligations.ShiftsRight := fun _ _ n _ _ _ a hn ha =>
  ⟨storesWord_of_shiftRegister rfl hn ha (shiftRightArithmetic_gives a hn.le_sixteen),
    storesWord_of_shiftRegister rfl hn ha (shiftRightLogical_gives a n),
    _, fun _ hi => getLsbD_rotated a hn.le_sixteen hi, storesWord_of_shiftRegister rfl hn ha (shiftRightCircular_gives a n)⟩

/-- Settles O55: OV is the overflow of the product. -/
theorem shiftLeft : Obligations.ShiftLeft := fun _ _ _ _ _ _ a hn ha =>
  storesWord_of_shiftRegister rfl hn ha (shiftLeftArithmetic_gives a hn.le_sixteen)

end Sys2Proof.Machine

/-! PROOFS of 60_exceptions.md: the boundary (O9), the level taken (O10), interrupt entry (O11), and where privileged instructions
trap (O47, O48). First the entry into privileged state and map file 0, which an extended operation makes too. -/

namespace Sys2Proof.Machine

/-! ## Entering privileged state and map file 0 (60_exceptions.md R300, R301) -/

/-- The entry clears PM and MF, where the variant has them. -/
theorem supervisorStatus_written (s : State) : StatusWritten s.st (supervisorStatus s) (supervisorFields s) := by
  have hpm : StatusWritten s.st (if s.plat.hasPrivilege then setFlag .pm false s.st else s.st)
      (if s.plat.hasPrivilege then [(.pm, false)] else []) := by
    split
    · exact setFlag_written .pm false s.st
    · exact .none s.st
  unfold supervisorStatus supervisorFields
  dsimp only
  cases s.plat.hasMap with
  | false => rwa [if_neg Bool.false_ne_true, if_neg Bool.false_ne_true, List.append_nil]
  | true =>
    rw [if_pos rfl, if_pos rfl]
    refine (hpm.cons .mf false fun x hx => ?_).perm fun x => by simp [or_comm]
    split at hx <;> simp_all

/-- PM and MF are the only fields it writes. -/
theorem mem_supervisorFields {s : State} {y : Flag × Bool} (h : y ∈ supervisorFields s) :
    y = (.pm, false) ∨ y = (.mf, false) := by
  rw [supervisorFields, List.mem_append] at h
  refine h.imp (fun hpm => ?_) fun hmf => ?_
  · split at hpm
    · exact List.mem_singleton.mp hpm
    · cases hpm
  · split at hmf
    · exact List.mem_singleton.mp hmf
    · cases hmf

theorem supervisorStatus_mf {s : State} (h : s.plat.hasMap = true) : flag .mf (supervisorStatus s) = false :=
  (supervisorStatus_written s).1 (.mf, false) (by simp [supervisorFields, h])

theorem maskOf_supervisorStatus (s : State) : maskOf (supervisorStatus s) = maskOf s.st := by
  unfold supervisorStatus
  split <;> split <;> simp

/-- A mask written besides the listed fields. -/
theorem StatusWritten.setMask {old new : Word} {fields : List (Flag × Bool)} (h : StatusWritten old new fields)
    (m : BitVec 4) : StatusAndMask old (setMask m new) fields m := by
  obtain ⟨hfields, hrest⟩ := h
  refine ⟨maskOf_setMask m new, fun x hx => (flag_setMask x.1 m new).trans (hfields x hx), fun i hlow hi hout => ?_⟩
  rw [getLsbD_setMask, if_neg (Nat.not_lt.mpr hlow)]
  exact hrest i hi hout

/-- The map file in force after the entry has the places of map file 0. -/
theorem place_supervisorStatus (s : State) (a : Word) :
    place s (currentMap (s.setSt (supervisorStatus s))) a = place s .zero a := by
  cases h : s.plat.hasMap with
  | true => simp [currentMap, supervisorStatus_mf h]
  | false => exact place_of_not_hasMap h _ _ a

section

variable {s s1 s2 : State} {vec wp pc old newWp newPc : Word}

/-- After the entry the vector's words are those of map file 0, and so is every later place. -/
theorem readVector_supervisorStatus {f : MapNo} (hf : currentMap (s.setSt (supervisorStatus s)) = f)
    (h1 : readWord .zero vec s = .ok (newWp, s1)) (h2 : readWord .zero (vec + 2) s1 = .ok (newPc, s2)) :
    readWord f vec (s.setSt (supervisorStatus s)) = .ok (newWp, s1.setSt (supervisorStatus s)) ∧
    readWord f (vec + 2) (s1.setSt (supervisorStatus s)) = .ok (newPc, s2.setSt (supervisorStatus s)) ∧
    ∀ a, place (s2.setSt (supervisorStatus s)) f a = place s2 .zero a := by
  subst hf
  have hread1 : ReadFrame s s1 := (readWord_frame h1).1
  have hread2 : ReadFrame s s2 := hread1.trans (readWord_frame h2).1
  refine ⟨readWord_setSt ((readWord_congr (place_supervisorStatus s) vec).trans h1) _,
    readWord_setSt ((readWord_congr (fun a => ?_) (vec + 2)).trans h2) _, fun a => ?_⟩
  · rw [hread1.place, hread1.place, place_supervisorStatus]
  · rw [show place (s2.setSt (supervisorStatus s)) _ a = place s2 _ a from place_congr rfl rfl rfl rfl _ a,
      hread2.place, hread2.place, place_supervisorStatus]

/-- A context switch through map file 0 after the entry. -/
theorem contextSwitch_supervisorStatus (h1 : readWord .zero vec s = .ok (newWp, s1))
    (h2 : readWord .zero (vec + 2) s1 = .ok (newPc, s2)) (x : SavePlaces s2 .zero newWp) :
    contextSwitch vec wp pc old none (s.setSt (supervisorStatus s)) =
      .ok ((), (((x.saved wp pc old s2).setSt (supervisorStatus s)).setWp newWp).jump newPc) := by
  obtain ⟨h1', h2', hplace⟩ := readVector_supervisorStatus rfl h1 h2
  rw [contextSwitch_ok rfl h1' h2' (x.transport hplace), x.saved_transport_setSt]

end

/-! ## The boundary (60_exceptions.md R311, R312) -/

theorem sampleInputs_idle (s : State) : (sampleInputs s).idle = s.idle := by
  obtain ⟨irq, clk, env, h⟩ := sampleInputs_eq s
  rw [h]
  rfl

theorem step_of_pendingLevel {s : State} {level : Nat} (h : pendingLevel (sampleInputs s) = some level) :
    step s = takeInterrupt level (sampleInputs s) := by
  unfold step cycle
  rw [h]

/-- Without a level to take the step stays idle or executes (decision D19). -/
theorem step_of_no_pendingLevel {s : State} (h : pendingLevel (sampleInputs s) = none) :
    step s = if s.idle then .next (sampleInputs s) else fetchAndExecute (sampleInputs s) := by
  unfold step cycle
  rw [h, ← sampleInputs_idle s]

/-- Settles O9: the two branches of the boundary. -/
theorem boundaryOutcome : Obligations.BoundaryOutcome :=
  ⟨fun _ _ h => step_of_pendingLevel h,
    fun s h hidle => ⟨(step_of_no_pendingLevel h).trans (if_pos hidle), (sampleInputs_idle s).trans hidle⟩⟩

/-- A request, by its three sources. -/
theorem requested_eq_true_iff (s : State) (level : Nat) :
    requested s level = true ↔ s.irq.getLsbD level = true ∨ (level = 2 ∧ s.err = true) ∨
      (s.plat.clockLevel = some level ∧ s.clken = true ∧ s.clk = true) := by
  simp [requested, or_assoc, and_assoc]

theorem requested_eq_false_iff (s : State) (level : Nat) :
    requested s level = false ↔ s.irq.getLsbD level = false ∧ ¬ (level = 2 ∧ s.err = true) ∧
      ¬ (s.plat.clockLevel = some level ∧ s.clken = true ∧ s.clk = true) := by
  rw [← Bool.not_eq_true, requested_eq_true_iff, not_or, not_or, Bool.not_eq_true]

/-- The level taken. Below a level that the mask enables every level is enabled, so that no lower one is requested at all. -/
theorem pendingLevel_eq_some_iff (s : State) (level : Nat) :
    pendingLevel s = some level ↔ s.ld = .none ∧ level < s.plat.levels ∧ level ≤ (maskOf s.st).toNat ∧
      requested s level = true ∧ ∀ m, m < level → requested s m = false := by
  unfold pendingLevel
  by_cases hld : s.ld = .none
  · rw [if_pos hld, List.find?_range_eq_some, List.mem_range]
    simp only [Bool.and_eq_true, decide_eq_true_eq, Bool.not_eq_true', Bool.and_eq_false_iff, decide_eq_false_iff_not]
    constructor
    · rintro ⟨⟨hreq, henabled⟩, hlevel, hlower⟩
      exact ⟨hld, hlevel, henabled, hreq, fun m hm =>
        (hlower m hm).resolve_right fun h => h (hm.le.trans henabled)⟩
    · rintro ⟨-, hlevel, henabled, hreq, hlower⟩
      exact ⟨⟨hreq, henabled⟩, hlevel, fun m hm => .inl (hlower m hm)⟩
  · simp [hld]

/-- Settles O10: what the search through the levels finds, with the requests by their sources. -/
theorem lowestPendingLevel : Obligations.LowestPendingLevel := by
  intro s level
  simp only [← requested_eq_true_iff, ← requested_eq_false_iff]
  exact pendingLevel_eq_some_iff s level

/-! ## Taking an interrupt (60_exceptions.md R310) -/

/-- The latches ERR and CLKEN that taking a level clears (log 17). -/
theorem clearLatches_apply (level : Nat) (u : State) :
    (do
      if level = 2 then update fun t => t.setErr false
      if level = 0 then update fun t => (t.setErr false).setClken false : Op Unit) u =
    .ok ((), (u.setErr (if level = 0 ∨ level = 2 then false else u.err)).setClken
      (if level = 0 then false else u.clken)) := by
  by_cases h2 : level = 2
  · subst h2; rfl
  · by_cases h0 : level = 0
    · subst h0; rfl
    · simp only [h0, h2, or_self, if_false]
      rfl

/-- An interrupt taken, from the context switch's answer on. -/
theorem takeInterrupt_ok {s s1 s2 : State} {level : Nat} {newWp newPc : Word}
    (h1 : readWord .zero (BitVec.ofNat 16 (4 * level)) s = .ok (newWp, s1))
    (h2 : readWord .zero (BitVec.ofNat 16 (4 * level) + 2) s1 = .ok (newPc, s2)) (x : SavePlaces s2 .zero newWp) :
    takeInterrupt level s = .next ((((((((x.saved s.wp s.pc s.st s2).setSt
      (setMask (BitVec.ofNat 4 (level - 1)) (supervisorStatus s))).setWp newWp).setPc (evenAddress newPc)).setIdle
        false).setErr (if level = 0 ∨ level = 2 then false else s.err)).setClken
          (if level = 0 then false else s.clken)).setLd .none) := by
  have hreads : ReadFrame s s2 := (readWord_frame h1).1.trans (readWord_frame h2).1
  have herr : (x.saved s.wp s.pc s.st s2).err = s.err := by simp [SavePlaces.saved, hreads.err]
  have hclken : (x.saved s.wp s.pc s.st s2).clken = s.clken := by simp [SavePlaces.saved, hreads.clken]
  refine complete_ok ?_
  rw [Op.get_bind, Op.update_bind, Op.bind_ok (contextSwitch_supervisorStatus h1 h2 x), Op.setStatus_bind, Op.update_bind,
    ← herr, ← hclken]
  exact clearLatches_apply level _

/-- Settles O11: the two reads of the vector write nothing, and the saves write their six bytes. -/
theorem interruptEntry : Obligations.InterruptEntry := by
  intro s s1 s2 level newWp newPc x _ h1 h2
  have hreads : ReadFrame s s2 := (readWord_frame h1).1.trans (readWord_frame h2).1
  exact ⟨_, takeInterrupt_ok h1 h2 x, rfl, (supervisorStatus_written s).setMask _, fun q hout hquiet =>
    (x.saved_byte _ _ _ s2 hout (hquiet.suffix hreads.dmaEnv)).trans (hreads.mem q hquiet)⟩

/-! ## The error interrupt (60_exceptions.md R315, R316) -/

section

variable {s s1 : State} {r12 : Word}

/-- With privilege a control instruction runs its body or traps: only the TMS9900, which has none, signals alone
(44_control_cru.md R205). -/
theorem control_of_hasPrivilege (h : s.plat.hasPrivilege = true) (c : Control) (body : Op Unit) :
    control c body s = whenPrivileged 0 body s := by
  unfold control
  rw [if_neg (by simp [isTms_of_hasPrivilege h])]

theorem hasPrivilege_of_unprivileged (hu : unprivileged s = true) : s.plat.hasPrivilege = true :=
  (Bool.and_eq_true_iff.mp hu).1

theorem control_of_unprivileged (hu : unprivileged s = true) (c : Control) (body : Op Unit) :
    control c body s = .ok ((), (s.jump (s.pc + BitVec.ofNat 16 (2 * 0))).setErr true) :=
  (control_of_hasPrivilege (hasPrivilege_of_unprivileged hu) c body).trans (whenPrivileged_of_unprivileged hu 0 body)

/-- LDS and LDD trap, and answer no latch. -/
theorem longDistance_of_unprivileged (hu : unprivileged s = true) (hmap : s.plat.hasMap = true) (g : GenAddr)
    (next : LongDistance) :
    longDistance g next s = .ok (.none, (s.jump (s.pc + BitVec.ofNat 16 (2 * g.extWords))).setErr true) := by
  unfold longDistance
  rw [withMapOption_of_hasMap hmap, if_pos hu]
  rfl

/-- The line of a single-bit instruction is this number, whatever it is (20_memory.md R71). -/
theorem cruBitLine_toNat (r12 : Word) (d : BitVec 8) :
    ((cruBitLine r12 d).toNat : Int) = ((r12.toNat / 2 : Nat) + d.toInt) % 4096 := by
  have hline : ((BitVec.ofInt 12 ((r12.toNat / 2 : Nat) + d.toInt)).toNat : Int) =
      ((r12.toNat / 2 : Nat) + d.toInt) % 4096 := by
    rw [BitVec.toNat_ofInt]
    exact Int.toNat_of_nonneg (Int.emod_nonneg _ (by decide))
  rw [cruBitLine_eq hline, hline]

/-- In non-privileged state a CRU instruction reads R12 and, on a privileged line, traps (20_memory.md R73). -/
theorem withCruLine_trap (hu : unprivileged s = true) (h : readReg 12 s = .ok (r12, s1)) {line : Word → BitVec 12}
    (hline : 0xE00 ≤ (line r12).toNat) (n : Nat) (body : Word → Op Unit) :
    (do let r ← readReg 12; withCruLine (line r) n (body r) : Op Unit) s =
      .ok ((), (s1.jump (s1.pc + BitVec.ofNat 16 (2 * n))).setErr true) := by
  have hpriv : cruPrivileged (line r12) = true := decide_eq_true hline
  have hu1 : unprivileged s1 = true := (readReg_frame h).1.unprivileged.trans hu
  rw [Op.bind_ok h, withCruLine, if_pos hpriv, whenPrivileged_of_unprivileged hu1]

end

/-- Settles O47: none of the nine bodies runs. -/
theorem privilegedInstructionsTrap : Obligations.PrivilegedInstructionsTrap := by
  intro s m w g hu
  refine ⟨complete_ok (control_of_unprivileged hu _ _), complete_ok (whenPrivileged_of_unprivileged hu 0 _),
    complete_ok (control_of_unprivileged hu _ _), complete_ok (control_of_unprivileged hu _ _),
    complete_ok (control_of_unprivileged hu _ _), complete_ok (whenPrivileged_of_unprivileged hu 1 _),
    fun hmap => ⟨?lmf, ?lds, ?ldd⟩⟩
  case lmf =>
    exact complete_ok ((withMapOption_of_hasMap hmap _).trans (whenPrivileged_of_unprivileged hu 0 _))
  case lds => exact completeLatching_ok (longDistance_of_unprivileged hu hmap g .src)
  case ldd => exact completeLatching_ok (longDistance_of_unprivileged hu hmap g .dst)

/-- Settles O48: the line of the single-bit instructions is the sum, and that of the others the base. -/
theorem privilegedCruTraps : Obligations.PrivilegedCruTraps := by
  intro s s1 r12 hu h
  refine ⟨fun d hge => ?bit, fun g c hge => ?bits⟩
  case bit =>
    rw [← cruBitLine_toNat] at hge
    have hline : 0xE00 ≤ (cruBitLine r12 d).toNat := by exact_mod_cast hge
    have htrap := withCruLine_trap (line := (cruBitLine · d)) hu h hline 0
    exact ⟨complete_ok (htrap _), complete_ok (htrap _), complete_ok (htrap _)⟩
  case bits =>
    have hline : 0xE00 ≤ (cruBase r12).toNat := by rwa [cruBase_eq_ofNat, BitVec.toNat_ofNat]
    have htrap := withCruLine_trap (line := cruBase) hu h hline g.extWords
    exact ⟨complete_ok (htrap _), complete_ok (htrap _)⟩

end Sys2Proof.Machine

/-! PROOFS of 48_xop_longdistance.md: the extended operation (O56) and the latch (O58); and what a non-privileged step keeps
(60_exceptions.md R320, O59). The last is one relation, `Protected`, that every shared operation keeps, whatever values PM and MF
have: those of the program, or after a software XOP those of its entry. -/

namespace Sys2Proof.Machine

/-! ## The software trap (48_xop_longdistance.md R270) -/

/-- The addresses of an extended operation's vector. -/
theorem xopVector (n : BitVec 4) : (0x0040 + 4 * n.setWidth 16 : Word) = BitVec.ofNat 16 (0x40 + 4 * n.toNat) := by
  apply BitVec.eq_of_toNat_eq
  simp [BitVec.toNat_add, BitVec.toNat_mul]

theorem xopVector_add_two (n : BitVec 4) :
    (BitVec.ofNat 16 (0x40 + 4 * n.toNat) + 2 : Word) = BitVec.ofNat 16 (0x42 + 4 * n.toNat) :=
  (BitVec.ofNat_add _ 2).symm.trans (congrArg (BitVec.ofNat 16) (by omega))

section

variable {s s1 s2 s3 : State} {vec wp pc old a newWp newPc : Word} {k : Config.RegionKind} {p : Nat}

/-- A context switch with an operand: its address goes to the new R11 before the three saves. -/
theorem contextSwitch_operand_ok {f : MapNo} (hf : currentMap s = f) (h1 : readWord f vec s = .ok (newWp, s1))
    (h2 : readWord f (vec + 2) s1 = .ok (newPc, s2)) (x : SavePlaces s2 f newWp)
    (hp : place s2 f (evenAddress (newWp + 22)) = .ok (k, p)) :
    contextSwitch vec wp pc old (some a) s =
      .ok ((), ((x.saved wp pc old (storedWord k p a s2)).setWp newWp).jump newPc) := by
  have m1 : currentMap s1 = f := (readWord_frame h1).1.currentMap.trans hf
  have m2 : currentMap s2 = f := (readWord_frame h2).1.currentMap.trans m1
  have m3 : currentMap (storedWord k p a s2) = f := (currentMap_storedWord _ _ _ _).trans m2
  have m4 : currentMap (storedWord x.k13 x.p13 wp (storedWord k p a s2)) = f := (currentMap_storedWord _ _ _ _).trans m3
  unfold contextSwitch
  rw [Op.bind_ok ((load_eq hf).trans h1), Op.bind_ok ((load_eq m1).trans h2)]
  show (store (newWp + 22) a >>= _) s2 = _
  rw [Op.bind_ok (store_ok m2 hp)]
  dsimp only
  rw [Op.bind_ok (store_ok (k := x.k13) (p := x.p13) m3 (by simpa using x.at13)),
    Op.bind_ok (store_ok (k := x.k14) (p := x.p14) m4 (by simpa using x.at14)),
    Op.bind_ok (store_ok (k := x.k15) (p := x.p15) ((currentMap_storedWord _ _ _ _).trans m4) (by simpa using x.at15))]
  rfl

/-- As `contextSwitch_supervisorStatus`, with an operand. -/
theorem contextSwitch_operand_supervisorStatus (h1 : readWord .zero vec s = .ok (newWp, s1))
    (h2 : readWord .zero (vec + 2) s1 = .ok (newPc, s2)) (x : SavePlaces s2 .zero newWp)
    (hp : place s2 .zero (evenAddress (newWp + 22)) = .ok (k, p)) :
    contextSwitch vec wp pc old (some a) (s.setSt (supervisorStatus s)) =
      .ok ((), (((x.saved wp pc old (storedWord k p a s2)).setSt (supervisorStatus s)).setWp newWp).jump newPc) := by
  obtain ⟨h1', h2', hplace⟩ := readVector_supervisorStatus rfl h1 h2
  rw [contextSwitch_operand_ok rfl h1' h2' (x.transport hplace) ((hplace _).trans hp), storedWord_setSt,
    x.saved_transport_setSt]

variable {g : GenAddr} {n : BitVec 4} {l : Loc}

/-- XOP without a module, once its operand is addressed. -/
theorem exec_xop_software (h : operandAddress .src .word g s = .ok (l, s1)) (hn : s.plat.xopHardware n = false)
    (h1 : readWord .zero (BitVec.ofNat 16 (0x40 + 4 * n.toNat)) s1 = .ok (newWp, s2))
    (h2 : readWord .zero (BitVec.ofNat 16 (0x42 + 4 * n.toNat)) s2 = .ok (newPc, s3)) (x : SavePlaces s3 .zero newWp)
    (hp : place s3 .zero (evenAddress (newWp + 22)) = .ok (k, p)) :
    exec (.xop g n) s = .next (((((x.saved s1.wp s1.pc s1.st (storedWord k p l.addr s3)).setSt
      (setFlag .x true (supervisorStatus s1))).setWp newWp).setPc (evenAddress newPc)).setLd .none) := by
  rw [← (operandAddress_frame h).plat] at hn
  rw [← xopVector_add_two] at h2
  refine complete_ok ?_
  rw [Op.bind_ok h, Op.get_bind, if_neg (by simp [hn]), Op.update_bind, xopVector,
    Op.bind_ok (contextSwitch_operand_supervisorStatus h1 h2 x hp)]
  rfl

/-- XOP of a connected module, once its operand is addressed (48_xop_longdistance.md R271). -/
theorem exec_xop_module (h : operandAddress .src .word g s = .ok (l, s1)) (hn : s.plat.xopHardware n = true)
    (hsupplied : s.plat.xopSupplied n = true) :
    exec (.xop g n) s = .next ((s1.afterModule (Config.xopModule n l.addr s1)).setLd .none) := by
  rw [← (operandAddress_frame h).plat] at hn hsupplied
  refine complete_ok ?_
  rw [Op.bind_ok h, Op.get_bind, if_pos hn, if_pos hsupplied, update_apply]

end

/-- Settles O56: the two branches of XOP; the entry writes PM, MF and X, and its saves and the operand's address their eight
bytes. -/
theorem extendedOperation : Obligations.ExtendedOperation := by
  refine ⟨?software, ?module⟩
  case software =>
    intro g n s s1 s2 s3 l newWp newPc x k p h hn h1 h2 hp
    have hreads : ReadFrame s1 s3 := (readWord_frame h1).1.trans (readWord_frame h2).1
    have hfields : supervisorFields s1 = supervisorFields s := by
      unfold supervisorFields
      rw [(operandAddress_frame h).plat]
    refine ⟨_, exec_xop_software h hn h1 h2 x hp, rfl, ?status, fun q hout hne hne' hquiet => ?memory⟩
    case status =>
      rw [← hfields]
      refine (supervisorStatus_written s1).cons .x true fun y hy => ?_
      rcases mem_supervisorFields hy with rfl | rfl <;> decide
    case memory =>
      have hquiet3 : s3.Quiet q := hquiet.suffix hreads.dmaEnv
      calc (x.saved s1.wp s1.pc s1.st (storedWord k p l.addr s3)).mem.byte q
          _ = (storedWord k p l.addr s3).mem.byte q := x.saved_byte _ _ _ _ hout (hquiet3.storedWord k p l.addr)
          _ = s3.mem.byte q := storedWord_byte_ne hne hne' hquiet3
          _ = s1.mem.byte q := hreads.mem q hquiet
  case module =>
    rintro g n s s1 l r h hn hsupplied rfl
    rw [← (operandAddress_frame h).plat]
    exact ⟨_, exec_xop_module h hn hsupplied, rfl, writtenBy_bytes _ _ _⟩

/-! ## The latch (48_xop_longdistance.md R277) -/

theorem complete_ld {body : Op Unit} {s t : State} (e : complete body s = .next t) : t.ld = .none := by
  obtain ⟨u, -, rfl⟩ := complete_eq_next.mp e
  rfl

/-- Nothing at all is asked of the states: what is left of `Closed.exec` is how an instruction ends. -/
theorem closed_true : Closed (fun _ => True) (fun _ => True) fun _ => True where
  turn _ _ := trivial
  draw _ _ _ := trivial
  emit _ _ _ := trivial
  jump _ _ _ := trivial
  trap _ _ _ := trivial
  setWp _ _ _ := trivial
  word _ _ _ _ _ _ _ _ _ := trivial
  byte _ _ _ _ _ _ _ _ _ := trivial
  current _ _ := trivial
  operand _ _ _ _ _ := trivial
  setSt _ _ _ _ := trivial
  after _ _ _ _ _ _ := trivial
  same := trivial

/-- Every instruction but X, LDS and LDD ends with the latch `none`. -/
theorem exec_ld {i : Instr} {s t : State} (hlds : ∀ g, i ≠ .lds g) (hldd : ∀ g, i ≠ .ldd g) (hx : ∀ g, i ≠ .x g)
    (e : exec i s = .next t) : t.ld = .none := by
  cases hi : isSystem i with
  | false => exact closed_true.exec (G' := fun u => u.ld = .none) (fun _ _ => rfl) hi trivial e
  | true =>
    cases i with
    | lds g => exact absurd rfl (hlds g)
    | ldd g => exact absurd rfl (hldd g)
    | x g => exact absurd rfl (hx g)
    | limi | lmf | idle | rset | rtwp | ckon | ckof | lrex | xop => exact complete_ld e
    | _ => cases hi

/-- Settles O58: the end of an instruction, of what X substitutes, and of an interrupt. -/
theorem latchLastsOneInstruction : Obligations.LatchLastsOneInstruction := by
  refine ⟨fun i s t hlds hldd hx e => exec_ld hlds hldd hx e, ?x, fun level s t e => complete_ld e⟩
  case x =>
    intro g s s1 t l ir hoperand hlds hldd e
    obtain ⟨l', ir', s1', i, hoperand', hdecode, hx, e⟩ := execX_next e
    cases hoperand.symm.trans hoperand'
    refine exec_ld (fun g' hg => hlds g' ?_) (fun g' hg => hldd g' ?_) hx e
    · exact hg ▸ hdecode
    · exact hg ▸ hdecode

/-! ## What a non-privileged program cannot change (60_exceptions.md R320) -/

/-- A change of ST that leaves privilege, the choice of the map file and the interrupt mask. -/
def KeepsProtection (f : Word → Word) : Prop := KeepsModes f ∧ ∀ st, maskOf (f st) = maskOf st

/-- The restricted return takes TI bits 0 to 6 of ST, which are above the mask too (42_branch.md R164). -/
theorem keepsProtection_restricted (w : Word) : KeepsProtection fun st => (st &&& 0x01FF) ||| (w &&& 0xFE00) := by
  refine ⟨keepsModes_restricted w, fun st => BitVec.eq_of_getLsbD_eq fun i hi => ?_⟩
  have old : ∀ j : Fin 4, (0x01FF : Word).getLsbD j.val = true := by decide
  have new : ∀ j : Fin 4, (0xFE00 : Word).getLsbD j.val = false := by decide
  simp only [maskOf, BitVec.getLsbD_extractLsb', BitVec.getLsbD_or, BitVec.getLsbD_and, Nat.zero_add, old ⟨i, hi⟩,
    new ⟨i, hi⟩, Bool.and_true, Bool.and_false, Bool.or_false]

/-- From s to t the platform, the map files, CLKEN, IDLE and the mask are as before and ERR is not cleared; in t PM and MF
have the given values. -/
structure Protected (s : State) (pm mf : Bool) (t : State) : Prop where
  plat  : t.plat = s.plat
  map0  : t.map0 = s.map0
  map1  : t.map1 = s.map1
  map2  : t.map2 = s.map2
  clken : t.clken = s.clken
  idle  : t.idle = s.idle
  mask  : maskOf t.st = maskOf s.st
  err   : s.err = true → t.err = true
  pm    : flag .pm t.st = pm
  mf    : flag .mf t.st = mf

namespace Protected

variable {s t u : State} {pm mf : Bool}

theorem refl (s : State) : Protected s (flag .pm s.st) (flag .mf s.st) s :=
  ⟨rfl, rfl, rfl, rfl, rfl, rfl, rfl, id, rfl, rfl⟩

theorem sampleInputs (s : State) : Protected s (flag .pm s.st) (flag .mf s.st) (sampleInputs s) := by
  obtain ⟨irq, clk, env, h⟩ := sampleInputs_eq s
  rw [h]
  exact { refl s with }

/-- The latch LD is not among it, so the end of an instruction may clear it. -/
theorem clearLd (h : Protected s pm mf t) : Protected s pm mf (t.setLd .none) := { h with }

/-- Every shared operation keeps what is protected: a store goes to memory, and no status function they use writes PM, MF or the
mask. -/
theorem closed (s : State) (pm mf : Bool) : Closed (Protected s pm mf) (fun _ => True) KeepsProtection where
  turn _ h := { h with }
  draw _ _ h := { h with }
  emit _ _ h := { h with }
  jump _ _ h := { h with }
  trap _ h _ := { h with err := fun _ => rfl }
  setWp _ _ h := { h with }
  word _ _ _ k _ _ h _ _ := by cases k <;> exact { h with }
  byte _ _ _ k _ _ h _ _ := by cases k <;> exact { h with }
  current _ _ := trivial
  operand _ _ _ _ _ := trivial
  setSt t _ h hf := { h with
    mask := (hf.2 t.st).trans h.mask
    pm := (hf.1 t.st).1.trans h.pm
    mf := (hf.1 t.st).2.trans h.mf }
  after f b _ hpm hmf hg := ⟨keepsModes_setFlag_comp b hpm hmf hg.1, fun st => (maskOf_setFlag f b _).trans (hg.2 st)⟩
  same := ⟨fun _ => ⟨rfl, rfl⟩, fun _ => rfl⟩

/-- The entry of a software XOP keeps the rest and sets PM and MF as it does (60_exceptions.md R301). -/
theorem supervisor (h : Protected s pm mf t) :
    Protected s (flag .pm (supervisorStatus t)) (flag .mf (supervisorStatus t)) (t.setSt (supervisorStatus t)) :=
  { h with mask := (maskOf_supervisorStatus t).trans h.mask, pm := rfl, mf := rfl }

end Protected

/-! ## Instructions in non-privileged state -/

section

variable {G : State → Prop} {files : MapNo → Prop} {status : (Word → Word) → Prop}

/-- Where every state is non-privileged a privileged body does not run: it is the error interrupt (60_exceptions.md R316). -/
theorem Closed.whenPrivileged_of_unprivileged (h : Closed G files status) (hu : ∀ s, G s → unprivileged s = true) (n : Nat)
    (body : Op Unit) : Preserves G (Machine.whenPrivileged n body) fun _ => True :=
  h.whenPrivileged n fun s hs hpriv => nomatch hpriv.symm.trans (hu s hs)

theorem Closed.control_of_unprivileged (h : Closed G files status) (hu : ∀ s, G s → unprivileged s = true) (c : Control)
    (body : Op Unit) : Preserves G (control c body) fun _ => True := by
  intro s hs a t e
  rw [control_of_hasPrivilege (hasPrivilege_of_unprivileged (hu s hs))] at e
  exact h.whenPrivileged_of_unprivileged hu 0 body s hs a t e

theorem Closed.withMapOption {α : Type} {body : Op α} {Q : α → Prop} (hb : Preserves G body Q) :
    Preserves G (withMapOption body) Q := by
  intro s hs a t e
  unfold Machine.withMapOption at e
  split at e
  · exact hb s hs a t e
  · cases e

theorem Closed.longDistance_of_unprivileged (h : Closed G files status) (hu : ∀ s, G s → unprivileged s = true)
    (g : GenAddr) (next : LongDistance) : Preserves G (longDistance g next) (· = .none) := by
  refine Closed.withMapOption fun s hs ld t e => ?_
  rw [if_pos (hu s hs)] at e
  cases e
  exact ⟨h.errorInterrupt _ hs (hu s hs), rfl⟩

/-- The return takes the restricted part of ST (42_branch.md R164). -/
theorem Closed.restoreContext_of_unprivileged (h : Closed G files status) (hu : ∀ s, G s → unprivileged s = true)
    (hr : ∀ w, status fun st => (st &&& 0x01FF) ||| (w &&& 0xFE00)) : Preserves G restoreContext fun _ => True := by
  refine (h.readReg 13).bind fun w13 _ => (h.readReg 14).bind fun w14 _ => (h.readReg 15).bind fun w15 _ =>
    Preserves.update fun s hs => ?_
  rw [if_pos (hu s hs)]
  exact h.jump _ w14 (h.setWp _ w13 (h.setSt s _ hs (hr w15)))

/-- In non-privileged state every instruction but X and XOP preserves what is closed. -/
theorem Closed.exec_of_unprivileged (h : Closed G files status) (hu : ∀ s, G s → unprivileged s = true)
    (hr : ∀ w, status fun st => (st &&& 0x01FF) ||| (w &&& 0xFE00)) (hl : ∀ s, G s → G (s.setLd .none)) {i : Instr}
    (hx : ∀ g, i ≠ .x g) (hxop : ∀ g n, i ≠ .xop g n) {s t : State} (hs : G s) (e : Machine.exec i s = .next t) : G t := by
  cases hi : isSystem i with
  | false => exact h.exec hl hi hs e
  | true =>
    have latched : ∀ s ld, G s → ld = .none → G (s.setLd ld) := fun s _ hs hld => hld ▸ hl s hs
    cases i with
    | x g => exact absurd rfl (hx g)
    | xop g n => exact absurd rfl (hxop g n)
    | limi => exact complete_preserves (h.whenPrivileged_of_unprivileged hu 1 _) hl hs e
    | lmf m w => exact complete_preserves (Closed.withMapOption (h.whenPrivileged_of_unprivileged hu 0 _)) hl hs e
    | idle => exact complete_preserves (h.whenPrivileged_of_unprivileged hu 0 _) hl hs e
    | rset => exact complete_preserves (h.control_of_unprivileged hu .rset _) hl hs e
    | ckon => exact complete_preserves (h.control_of_unprivileged hu .ckon _) hl hs e
    | ckof => exact complete_preserves (h.control_of_unprivileged hu .ckof _) hl hs e
    | lrex => exact complete_preserves (h.control_of_unprivileged hu .lrex _) hl hs e
    | rtwp => exact complete_preserves (h.restoreContext_of_unprivileged hu hr) hl hs e
    | lds g => exact completeLatching_preserves (h.longDistance_of_unprivileged hu g .src) latched hs e
    | ldd g => exact completeLatching_preserves (h.longDistance_of_unprivileged hu g .dst) latched hs e
    | _ => cases hi

/-- A fetch and execution that answers ran an instruction that is not X, itself or through X (42_branch.md R183), from a state
that the fetch, and the evaluation of X's operand, lead to. -/
theorem Closed.fetchAndExecute_runs (h : Closed G files status) (hl : ∀ s, G s → G (s.setLd .none)) {s t : State}
    (hs : G (sampleInputs s)) (e : fetchAndExecute (sampleInputs s) = .next t) :
    ∃ i u, Runs s i u ∧ (∀ g, i ≠ .x g) ∧ G u ∧ Machine.exec i u = .next t := by
  obtain ⟨w, u, i, hfetch, hdecode, e⟩ := fetchAndExecute_next e
  have hu : G u := (h.fetch _ hs w u hfetch).1
  by_cases hx : ∃ g, i = .x g
  · obtain ⟨g, rfl⟩ := hx
    obtain ⟨l, ir, v, j, hread, hj, hjx, e⟩ := execX_next e
    have hv : G v := (h.operandWord (by decide) g u hu _ v hread).1
    exact ⟨j, _, ⟨w, u, hfetch, .inr ⟨g, l, ir, v, hdecode, hread, hj, hjx, rfl⟩⟩, hjx, hl v hv, e⟩
  · have hx' : ∀ g, i ≠ .x g := fun g hg => hx ⟨g, hg⟩
    exact ⟨i, u, ⟨w, u, hfetch, .inl ⟨hdecode, hx', rfl⟩⟩, hx', hu, e⟩

end

/-! ## XOP in non-privileged state -/

/-- An XOP that answers addressed its operand; a module it has is supplied and answered, and without one it entered privileged
state, switched context and set X (48_xop_longdistance.md R270, R271). -/
theorem execXop_next {g : GenAddr} {n : BitVec 4} {s t : State} (e : exec (.xop g n) s = .next t) :
    ∃ l v, operandAddress .src .word g s = .ok (l, v) ∧
      ((v.plat.xopHardware n = true ∧ t = (v.afterModule (Config.xopModule n l.addr v)).setLd .none) ∨
        v.plat.xopHardware n = false ∧ ∃ w,
          contextSwitch (0x0040 + 4 * n.setWidth 16) v.wp v.pc v.st (some l.addr) (v.setSt (supervisorStatus v)) = .ok ((), w) ∧
          t = (w.setSt (setFlag .x true w.st)).setLd .none) := by
  obtain ⟨u, hu, rfl⟩ := complete_eq_next.mp (show execXop g n s = .next t from e)
  obtain ⟨l, v, hl, hv⟩ := Op.bind_eq_ok.mp hu
  refine ⟨l, v, hl, ?_⟩
  rw [Op.get_bind] at hv
  cases hn : v.plat.xopHardware n with
  | true =>
    rw [if_pos hn] at hv
    split at hv
    · cases hv
      exact .inl ⟨rfl, rfl⟩
    · cases hv
  | false =>
    rw [if_neg (by simp [hn]), Op.update_bind] at hv
    obtain ⟨⟨⟩, w, hw, hv⟩ := Op.bind_eq_ok.mp hv
    cases hv
    exact .inr ⟨rfl, w, hw, rfl⟩

/-- A software XOP ends in privileged state and map file 0 with X set, and keeps the rest; an XOP of a module ends in what the
module's function answers. -/
theorem Protected.exec_xop {s u t : State} {pm mf : Bool} (hpriv : s.plat.hasPrivilege = true) (h : Protected s pm mf u)
    {g : GenAddr} {n : BitVec 4} (e : exec (.xop g n) u = .next t) :
    (s.plat.xopHardware n = false ∧ flag .x t.st = true ∧
      ∃ mf', Protected s false mf' t ∧ (s.plat.hasMap = true → mf' = false)) ∨
    (s.plat.xopHardware n = true ∧ ∃ l v, operandAddress .src .word g u = .ok (l, v) ∧ v.plat = s.plat ∧
      t = (v.afterModule (Config.xopModule n l.addr v)).setLd .none) := by
  obtain ⟨l, v, hl, hbranch⟩ := execXop_next e
  have hv : Protected s pm mf v := ((Protected.closed s pm mf).operandAddress (by decide) .word g u h l v hl).1
  rw [hv.plat] at hbranch
  rcases hbranch with ⟨hn, rfl⟩ | ⟨hn, w, hw, rfl⟩
  case inl => exact .inr ⟨hn, l, v, hl, hv.plat, rfl⟩
  case inr =>
    have hentry := hv.supervisor
    rw [supervisorStatus_pm (hv.plat ▸ hpriv)] at hentry
    have hc := Protected.closed s false (flag .mf (supervisorStatus v))
    have hswitched := (hc.contextSwitch _ _ _ _ _ _ hentry () w hw).1
    have hset := hc.setSt w _ hswitched (hc.field .x true (by decide) (by decide))
    exact .inl ⟨hn, flag_setFlag_same .x true w.st, _, hset.clearLd, fun hmap => supervisorStatus_mf (hv.plat ▸ hmap)⟩

/-! ## A step in non-privileged state -/

/-- A step in which no interrupt is taken, whether it stays idle or executes, keeps what is protected, with the program's PM and
MF, or runs an XOP. -/
theorem protected_or_runs_xop {s t : State} (hu : unprivileged s = true) (hpending : pendingLevel (sampleInputs s) = none)
    (e : step s = .next t) :
    Protected s true (flag .mf s.st) t ∨
    ∃ g n u, Runs s (.xop g n) u ∧ Protected s true (flag .mf s.st) u ∧ exec (.xop g n) u = .next t := by
  obtain ⟨hpriv, hpm⟩ := Bool.and_eq_true_iff.mp hu
  have hc := Protected.closed s true (flag .mf s.st)
  have hstart : Protected s true (flag .mf s.st) (sampleInputs s) := hpm ▸ Protected.sampleInputs s
  have hunpriv : ∀ u, Protected s true (flag .mf s.st) u → unprivileged u = true := fun u h => by
    simp [unprivileged, h.plat, h.pm, hpriv]
  rw [step_of_no_pendingLevel hpending] at e
  split at e
  case isTrue =>
    cases e
    exact .inl hstart
  case isFalse =>
    obtain ⟨i, u, hruns, hx, hkept, e⟩ := hc.fetchAndExecute_runs (fun _ h => h.clearLd) hstart e
    by_cases hxop : ∃ g n, i = .xop g n
    case pos =>
      obtain ⟨g, n, rfl⟩ := hxop
      exact .inr ⟨g, n, u, hruns, hkept, e⟩
    case neg =>
      exact .inl (hc.exec_of_unprivileged hunpriv keepsProtection_restricted (fun _ h => h.clearLd) hx
        (fun g n h => hxop ⟨g, n, h⟩) hkept e)

/-- Settles O59: an XOP is the one instruction that leaves the program's PM and MF. -/
theorem nonPrivilegedKeeps : Obligations.NonPrivilegedKeeps := by
  intro s t hu hpending e
  rcases protected_or_runs_xop hu hpending e with ht | ⟨g, n, u, hruns, hkept, e⟩
  case inl =>
    exact ⟨ht.plat, .inl ⟨ht.map0, ht.map1, ht.map2, ht.clken, ht.idle, ht.mask, ht.err, .inl ⟨ht.pm, ht.mf⟩⟩⟩
  case inr =>
    rcases hkept.exec_xop (hasPrivilege_of_unprivileged hu) e with
      ⟨hn, hx, mf, ht, hmf⟩ | ⟨hn, l, v, hl, hplat, rfl⟩
    case inl =>
      exact ⟨ht.plat, .inl ⟨ht.map0, ht.map1, ht.map2, ht.clken, ht.idle, ht.mask, ht.err,
        .inr ⟨⟨g, n, u, hruns, hn⟩, ht.pm, hx, fun hmap => ht.mf.trans (hmf hmap)⟩⟩⟩
    case inr => exact ⟨hplat, .inr ⟨g, n, u, l, v, hruns, hn, hl, rfl⟩⟩

end Sys2Proof.Machine
